-- ==== Sys2Proof/Word.lean ====
section
/-! DEFINITION. The two word types of the machine (00_scope.md R9: DATA_WIDTH 8, ADDR_WIDTH 16). -/

namespace Sys2Proof

/-- A register, a data-bus value, a memory cell: 8 bits (00_scope.md R9 `DATA_WIDTH`). -/
abbrev Byte := BitVec 8

/-- An address, and PC: 16 bits (00_scope.md R9 `ADDR_WIDTH`). -/
abbrev Addr := BitVec 16

end Sys2Proof
end

