-- ==== Sys2Proof/Machine/Bits.lean ====
section
/-! DEFINITION. Bit-field, extension and byte-order helpers (00_scope.md R10). -/

namespace Sys2Proof.Machine

/-- `hi:lo`, the 16-bit value `hi*256 + lo` (00_scope.md R10). -/
def word (hi lo : Byte) : Addr := hi ++ lo

/-- `a[7:0]` (00_scope.md R10). -/
def lowByte (a : Addr) : Byte := a.setWidth 8

/-- `a[15:8]` (00_scope.md R10). -/
def highByte (a : Addr) : Byte := (a >>> 8).setWidth 8

/-- `zext_16(v)` (00_scope.md R10). -/
def zext (v : Byte) : Addr := v.setWidth 16

/-- `sext_16(v)`: bit 7 copied into bits 15..8 (00_scope.md R10). -/
def sext (v : Byte) : Addr := v.signExtend 16

/-- `v[n]` as a truth value (00_scope.md R10). -/
def bit (v : Byte) (n : Nat) : Bool := v.getLsbD n

end Sys2Proof.Machine
end

