-- ==== Sys2Proof/Syntax.lean ====
section
/-! DEFINITION. The syntax: the addressing modes (30_encoding.md R81), one constructor of `Instr` per row of
opcode_table.json (R83), and an instruction together with its operand bytes.

An `Instr` is what the dispatch table gives for an opcode byte: mnemonic and mode. It carries no operand,
because the handler "fetches its own operand bytes" over the bus (R80, 40_pipelines.md R102; log 9).
`Encoded` pairs it with the operand for decoding and encoding. -/

namespace Sys2Proof

/-- The addressing modes of 30_encoding.md R81. -/
inductive Mode where
  | imp
  | acc
  | imm
  | zp
  | zpx
  | zpy
  | abs
  | absx
  | absy
  | indx
  | indy
  | ind
  | rel
  deriving DecidableEq, Repr, Inhabited

/-- The instruction formats of 30_encoding.md R80. -/
inductive Format where
  | f1
  | f2
  | f3
  deriving DecidableEq, Repr, Inhabited

/-- One constructor per row of opcode_table.json. -/
inductive Instr where
  | ldaImm  -- LDA #$nn (R200)
  | ldaZp  -- LDA $nn (R200)
  | ldaZpX  -- LDA $nn,X (R200)
  | ldaAbs  -- LDA $nnnn (R200)
  | ldaAbsX  -- LDA $nnnn,X (R200)
  | ldaAbsY  -- LDA $nnnn,Y (R200)
  | ldaIndX  -- LDA ($nn,X) (R200)
  | ldaIndY  -- LDA ($nn),Y (R200)
  | ldxImm  -- LDX #$nn (R201)
  | ldxZp  -- LDX $nn (R201)
  | ldxZpY  -- LDX $nn,Y (R201)
  | ldxAbs  -- LDX $nnnn (R201)
  | ldxAbsY  -- LDX $nnnn,Y (R201)
  | ldyImm  -- LDY #$nn (R202)
  | ldyZp  -- LDY $nn (R202)
  | ldyZpX  -- LDY $nn,X (R202)
  | ldyAbs  -- LDY $nnnn (R202)
  | ldyAbsX  -- LDY $nnnn,X (R202)
  | staZp  -- STA $nn (R203)
  | staZpX  -- STA $nn,X (R203)
  | staAbs  -- STA $nnnn (R203)
  | staAbsX  -- STA $nnnn,X (R203)
  | staAbsY  -- STA $nnnn,Y (R203)
  | staIndX  -- STA ($nn,X) (R203)
  | staIndY  -- STA ($nn),Y (R203)
  | stxZp  -- STX $nn (R204)
  | stxZpY  -- STX $nn,Y (R204)
  | stxAbs  -- STX $nnnn (R204)
  | styZp  -- STY $nn (R205)
  | styZpX  -- STY $nn,X (R205)
  | styAbs  -- STY $nnnn (R205)
  | tax  -- TAX (R206)
  | tay  -- TAY (R207)
  | txa  -- TXA (R208)
  | tya  -- TYA (R209)
  | tsx  -- TSX (R210)
  | txs  -- TXS (R211)
  | adcImm  -- ADC #$nn (R235)
  | adcZp  -- ADC $nn (R235)
  | adcZpX  -- ADC $nn,X (R235)
  | adcAbs  -- ADC $nnnn (R235)
  | adcAbsX  -- ADC $nnnn,X (R235)
  | adcAbsY  -- ADC $nnnn,Y (R235)
  | adcIndX  -- ADC ($nn,X) (R235)
  | adcIndY  -- ADC ($nn),Y (R235)
  | sbcImm  -- SBC #$nn (R236)
  | sbcZp  -- SBC $nn (R236)
  | sbcZpX  -- SBC $nn,X (R236)
  | sbcAbs  -- SBC $nnnn (R236)
  | sbcAbsX  -- SBC $nnnn,X (R236)
  | sbcAbsY  -- SBC $nnnn,Y (R236)
  | sbcIndX  -- SBC ($nn,X) (R236)
  | sbcIndY  -- SBC ($nn),Y (R236)
  | cmpImm  -- CMP #$nn (R237)
  | cmpZp  -- CMP $nn (R237)
  | cmpZpX  -- CMP $nn,X (R237)
  | cmpAbs  -- CMP $nnnn (R237)
  | cmpAbsX  -- CMP $nnnn,X (R237)
  | cmpAbsY  -- CMP $nnnn,Y (R237)
  | cmpIndX  -- CMP ($nn,X) (R237)
  | cmpIndY  -- CMP ($nn),Y (R237)
  | cpxImm  -- CPX #$nn (R238)
  | cpxZp  -- CPX $nn (R238)
  | cpxAbs  -- CPX $nnnn (R238)
  | cpyImm  -- CPY #$nn (R239)
  | cpyZp  -- CPY $nn (R239)
  | cpyAbs  -- CPY $nnnn (R239)
  | incZp  -- INC $nn (R240)
  | incZpX  -- INC $nn,X (R240)
  | incAbs  -- INC $nnnn (R240)
  | incAbsX  -- INC $nnnn,X (R240)
  | decZp  -- DEC $nn (R241)
  | decZpX  -- DEC $nn,X (R241)
  | decAbs  -- DEC $nnnn (R241)
  | decAbsX  -- DEC $nnnn,X (R241)
  | inx  -- INX (R242)
  | iny  -- INY (R243)
  | dex  -- DEX (R244)
  | dey  -- DEY (R245)
  | andImm  -- AND #$nn (R260)
  | andZp  -- AND $nn (R260)
  | andZpX  -- AND $nn,X (R260)
  | andAbs  -- AND $nnnn (R260)
  | andAbsX  -- AND $nnnn,X (R260)
  | andAbsY  -- AND $nnnn,Y (R260)
  | andIndX  -- AND ($nn,X) (R260)
  | andIndY  -- AND ($nn),Y (R260)
  | oraImm  -- ORA #$nn (R261)
  | oraZp  -- ORA $nn (R261)
  | oraZpX  -- ORA $nn,X (R261)
  | oraAbs  -- ORA $nnnn (R261)
  | oraAbsX  -- ORA $nnnn,X (R261)
  | oraAbsY  -- ORA $nnnn,Y (R261)
  | oraIndX  -- ORA ($nn,X) (R261)
  | oraIndY  -- ORA ($nn),Y (R261)
  | eorImm  -- EOR #$nn (R262)
  | eorZp  -- EOR $nn (R262)
  | eorZpX  -- EOR $nn,X (R262)
  | eorAbs  -- EOR $nnnn (R262)
  | eorAbsX  -- EOR $nnnn,X (R262)
  | eorAbsY  -- EOR $nnnn,Y (R262)
  | eorIndX  -- EOR ($nn,X) (R262)
  | eorIndY  -- EOR ($nn),Y (R262)
  | bitZp  -- BIT $nn (R263)
  | bitAbs  -- BIT $nnnn (R263)
  | aslA  -- ASL A (R264)
  | aslZp  -- ASL $nn (R264)
  | aslZpX  -- ASL $nn,X (R264)
  | aslAbs  -- ASL $nnnn (R264)
  | aslAbsX  -- ASL $nnnn,X (R264)
  | lsrA  -- LSR A (R265)
  | lsrZp  -- LSR $nn (R265)
  | lsrZpX  -- LSR $nn,X (R265)
  | lsrAbs  -- LSR $nnnn (R265)
  | lsrAbsX  -- LSR $nnnn,X (R265)
  | rolA  -- ROL A (R266)
  | rolZp  -- ROL $nn (R266)
  | rolZpX  -- ROL $nn,X (R266)
  | rolAbs  -- ROL $nnnn (R266)
  | rolAbsX  -- ROL $nnnn,X (R266)
  | rorA  -- ROR A (R267)
  | rorZp  -- ROR $nn (R267)
  | rorZpX  -- ROR $nn,X (R267)
  | rorAbs  -- ROR $nnnn (R267)
  | rorAbsX  -- ROR $nnnn,X (R267)
  | bpl  -- BPL label (R291)
  | bmi  -- BMI label (R292)
  | bvc  -- BVC label (R293)
  | bvs  -- BVS label (R294)
  | bcc  -- BCC label (R295)
  | bcs  -- BCS label (R296)
  | bne  -- BNE label (R297)
  | beq  -- BEQ label (R298)
  | jmpAbs  -- JMP $nnnn (R299)
  | jmpInd  -- JMP ($nnnn) (R299)
  | jsr  -- JSR $nnnn (R302)
  | rts  -- RTS (R303)
  | brk  -- BRK (R304)
  | rti  -- RTI (R305)
  | nop  -- NOP (R306)
  | pha  -- PHA (R330)
  | php  -- PHP (R331)
  | pla  -- PLA (R332)
  | plp  -- PLP (R333)
  | clc  -- CLC (R334)
  | sec  -- SEC (R335)
  | cli  -- CLI (R336)
  | sei  -- SEI (R337)
  | cld  -- CLD (R338)
  | sed  -- SED (R339)
  | clv  -- CLV (R340)
  deriving DecidableEq, Repr, Inhabited

/-- The operand of an encoded instruction (30_encoding.md R80): none, `operand8`, or `operand16`. -/
inductive Operand where
  | none
  | byte (b : Byte)
  | addr (w : Addr)
  deriving DecidableEq, Repr, Inhabited

/-- An instruction with its operand, as it stands in memory (30_encoding.md R80). -/
structure Encoded where
  instr : Instr
  operand : Operand
  deriving DecidableEq, Repr, Inhabited

end Sys2Proof
end

