-- ==== Sys2Proof/Machine/Modes.lean ====
section
/-! DEFINITION. The addressing mode of each instruction and the format of each mode
(30_encoding.md R80, R81, R83). -/

namespace Sys2Proof.Machine

/-- The addressing mode of each row of opcode_table.json. -/
def modeOf : Instr → Mode
  | .ldaImm => .imm
  | .ldaZp => .zp
  | .ldaZpX => .zpx
  | .ldaAbs => .abs
  | .ldaAbsX => .absx
  | .ldaAbsY => .absy
  | .ldaIndX => .indx
  | .ldaIndY => .indy
  | .ldxImm => .imm
  | .ldxZp => .zp
  | .ldxZpY => .zpy
  | .ldxAbs => .abs
  | .ldxAbsY => .absy
  | .ldyImm => .imm
  | .ldyZp => .zp
  | .ldyZpX => .zpx
  | .ldyAbs => .abs
  | .ldyAbsX => .absx
  | .staZp => .zp
  | .staZpX => .zpx
  | .staAbs => .abs
  | .staAbsX => .absx
  | .staAbsY => .absy
  | .staIndX => .indx
  | .staIndY => .indy
  | .stxZp => .zp
  | .stxZpY => .zpy
  | .stxAbs => .abs
  | .styZp => .zp
  | .styZpX => .zpx
  | .styAbs => .abs
  | .tax => .imp
  | .tay => .imp
  | .txa => .imp
  | .tya => .imp
  | .tsx => .imp
  | .txs => .imp
  | .adcImm => .imm
  | .adcZp => .zp
  | .adcZpX => .zpx
  | .adcAbs => .abs
  | .adcAbsX => .absx
  | .adcAbsY => .absy
  | .adcIndX => .indx
  | .adcIndY => .indy
  | .sbcImm => .imm
  | .sbcZp => .zp
  | .sbcZpX => .zpx
  | .sbcAbs => .abs
  | .sbcAbsX => .absx
  | .sbcAbsY => .absy
  | .sbcIndX => .indx
  | .sbcIndY => .indy
  | .cmpImm => .imm
  | .cmpZp => .zp
  | .cmpZpX => .zpx
  | .cmpAbs => .abs
  | .cmpAbsX => .absx
  | .cmpAbsY => .absy
  | .cmpIndX => .indx
  | .cmpIndY => .indy
  | .cpxImm => .imm
  | .cpxZp => .zp
  | .cpxAbs => .abs
  | .cpyImm => .imm
  | .cpyZp => .zp
  | .cpyAbs => .abs
  | .incZp => .zp
  | .incZpX => .zpx
  | .incAbs => .abs
  | .incAbsX => .absx
  | .decZp => .zp
  | .decZpX => .zpx
  | .decAbs => .abs
  | .decAbsX => .absx
  | .inx => .imp
  | .iny => .imp
  | .dex => .imp
  | .dey => .imp
  | .andImm => .imm
  | .andZp => .zp
  | .andZpX => .zpx
  | .andAbs => .abs
  | .andAbsX => .absx
  | .andAbsY => .absy
  | .andIndX => .indx
  | .andIndY => .indy
  | .oraImm => .imm
  | .oraZp => .zp
  | .oraZpX => .zpx
  | .oraAbs => .abs
  | .oraAbsX => .absx
  | .oraAbsY => .absy
  | .oraIndX => .indx
  | .oraIndY => .indy
  | .eorImm => .imm
  | .eorZp => .zp
  | .eorZpX => .zpx
  | .eorAbs => .abs
  | .eorAbsX => .absx
  | .eorAbsY => .absy
  | .eorIndX => .indx
  | .eorIndY => .indy
  | .bitZp => .zp
  | .bitAbs => .abs
  | .aslA => .acc
  | .aslZp => .zp
  | .aslZpX => .zpx
  | .aslAbs => .abs
  | .aslAbsX => .absx
  | .lsrA => .acc
  | .lsrZp => .zp
  | .lsrZpX => .zpx
  | .lsrAbs => .abs
  | .lsrAbsX => .absx
  | .rolA => .acc
  | .rolZp => .zp
  | .rolZpX => .zpx
  | .rolAbs => .abs
  | .rolAbsX => .absx
  | .rorA => .acc
  | .rorZp => .zp
  | .rorZpX => .zpx
  | .rorAbs => .abs
  | .rorAbsX => .absx
  | .bpl => .rel
  | .bmi => .rel
  | .bvc => .rel
  | .bvs => .rel
  | .bcc => .rel
  | .bcs => .rel
  | .bne => .rel
  | .beq => .rel
  | .jmpAbs => .abs
  | .jmpInd => .ind
  | .jsr => .abs
  | .rts => .imp
  | .brk => .imp
  | .rti => .imp
  | .nop => .imp
  | .pha => .imp
  | .php => .imp
  | .pla => .imp
  | .plp => .imp
  | .clc => .imp
  | .sec => .imp
  | .cli => .imp
  | .sei => .imp
  | .cld => .imp
  | .sed => .imp
  | .clv => .imp

/-- The format of each mode (30_encoding.md R81). -/
def formatOf : Mode → Format
  | .imp | .acc => .f1
  | .imm | .zp | .zpx | .zpy | .indx | .indy | .rel => .f2
  | .abs | .absx | .absy | .ind => .f3

end Sys2Proof.Machine
end

