-- ==== Sys2Proof/WellFormed.lean ====
section
/-! DEFINITION. A well-formed encoded instruction: its operand is the one its format has
(30_encoding.md R80, R81). Every operand value is legal (R82). -/

namespace Sys2Proof

/-- F1 has no operand, F2 one byte, F3 two (30_encoding.md R80). -/
def Operand.fits : Format → Operand → Bool
  | .f1, .none => true
  | .f2, .byte _ => true
  | .f3, .addr _ => true
  | .f1, .byte _ | .f1, .addr _ | .f2, .none | .f2, .addr _ | .f3, .none | .f3, .byte _ => false

def Encoded.wf (e : Encoded) : Bool := e.operand.fits (Machine.formatOf (Machine.modeOf e.instr))

end Sys2Proof
end

