-- ==== Sys2Proof/Decode.lean ====
section
/-! DEFINITION. Decoding, total on any bytes, from the opcode map of 30_encoding.md R83; then encoding, from
the opcode lists of the instruction rules (41_load_store_transfer.md to 45_stack_flags.md). -/

namespace Sys2Proof

open Machine

/-- Why some bytes are no instruction. -/
inductive DecodeError where
  /-- fewer bytes than the instruction has -/
  | truncated
  /-- an opcode byte marked `--` in 30_encoding.md R83 (R84) -/
  | undefinedOpcode (op : Byte)
  deriving DecidableEq, Repr, Inhabited

/-- Row 0x of the map of 30_encoding.md R83: columns x0 to xF. -/
def opcodeRow0 : List (Option Instr) :=
  [some .brk, some .oraIndX, none, none,
   none, some .oraZp, some .aslZp, none,
   some .php, some .oraImm, some .aslA, none,
   none, some .oraAbs, some .aslAbs, none]

/-- Row 1x of the map of 30_encoding.md R83: columns x0 to xF. -/
def opcodeRow1 : List (Option Instr) :=
  [some .bpl, some .oraIndY, none, none,
   none, some .oraZpX, some .aslZpX, none,
   some .clc, some .oraAbsY, none, none,
   none, some .oraAbsX, some .aslAbsX, none]

/-- Row 2x of the map of 30_encoding.md R83: columns x0 to xF. -/
def opcodeRow2 : List (Option Instr) :=
  [some .jsr, some .andIndX, none, none,
   some .bitZp, some .andZp, some .rolZp, none,
   some .plp, some .andImm, some .rolA, none,
   some .bitAbs, some .andAbs, some .rolAbs, none]

/-- Row 3x of the map of 30_encoding.md R83: columns x0 to xF. -/
def opcodeRow3 : List (Option Instr) :=
  [some .bmi, some .andIndY, none, none,
   none, some .andZpX, some .rolZpX, none,
   some .sec, some .andAbsY, none, none,
   none, some .andAbsX, some .rolAbsX, none]

/-- Row 4x of the map of 30_encoding.md R83: columns x0 to xF. -/
def opcodeRow4 : List (Option Instr) :=
  [some .rti, some .eorIndX, none, none,
   none, some .eorZp, some .lsrZp, none,
   some .pha, some .eorImm, some .lsrA, none,
   some .jmpAbs, some .eorAbs, some .lsrAbs, none]

/-- Row 5x of the map of 30_encoding.md R83: columns x0 to xF. -/
def opcodeRow5 : List (Option Instr) :=
  [some .bvc, some .eorIndY, none, none,
   none, some .eorZpX, some .lsrZpX, none,
   some .cli, some .eorAbsY, none, none,
   none, some .eorAbsX, some .lsrAbsX, none]

/-- Row 6x of the map of 30_encoding.md R83: columns x0 to xF. -/
def opcodeRow6 : List (Option Instr) :=
  [some .rts, some .adcIndX, none, none,
   none, some .adcZp, some .rorZp, none,
   some .pla, some .adcImm, some .rorA, none,
   some .jmpInd, some .adcAbs, some .rorAbs, none]

/-- Row 7x of the map of 30_encoding.md R83: columns x0 to xF. -/
def opcodeRow7 : List (Option Instr) :=
  [some .bvs, some .adcIndY, none, none,
   none, some .adcZpX, some .rorZpX, none,
   some .sei, some .adcAbsY, none, none,
   none, some .adcAbsX, some .rorAbsX, none]

/-- Row 8x of the map of 30_encoding.md R83: columns x0 to xF. -/
def opcodeRow8 : List (Option Instr) :=
  [none, some .staIndX, none, none,
   some .styZp, some .staZp, some .stxZp, none,
   some .dey, none, some .txa, none,
   some .styAbs, some .staAbs, some .stxAbs, none]

/-- Row 9x of the map of 30_encoding.md R83: columns x0 to xF. -/
def opcodeRow9 : List (Option Instr) :=
  [some .bcc, some .staIndY, none, none,
   some .styZpX, some .staZpX, some .stxZpY, none,
   some .tya, some .staAbsY, some .txs, none,
   none, some .staAbsX, none, none]

/-- Row Ax of the map of 30_encoding.md R83: columns x0 to xF. -/
def opcodeRowA : List (Option Instr) :=
  [some .ldyImm, some .ldaIndX, some .ldxImm, none,
   some .ldyZp, some .ldaZp, some .ldxZp, none,
   some .tay, some .ldaImm, some .tax, none,
   some .ldyAbs, some .ldaAbs, some .ldxAbs, none]

/-- Row Bx of the map of 30_encoding.md R83: columns x0 to xF. -/
def opcodeRowB : List (Option Instr) :=
  [some .bcs, some .ldaIndY, none, none,
   some .ldyZpX, some .ldaZpX, some .ldxZpY, none,
   some .clv, some .ldaAbsY, some .tsx, none,
   some .ldyAbsX, some .ldaAbsX, some .ldxAbsY, none]

/-- Row Cx of the map of 30_encoding.md R83: columns x0 to xF. -/
def opcodeRowC : List (Option Instr) :=
  [some .cpyImm, some .cmpIndX, none, none,
   some .cpyZp, some .cmpZp, some .decZp, none,
   some .iny, some .cmpImm, some .dex, none,
   some .cpyAbs, some .cmpAbs, some .decAbs, none]

/-- Row Dx of the map of 30_encoding.md R83: columns x0 to xF. -/
def opcodeRowD : List (Option Instr) :=
  [some .bne, some .cmpIndY, none, none,
   none, some .cmpZpX, some .decZpX, none,
   some .cld, some .cmpAbsY, none, none,
   none, some .cmpAbsX, some .decAbsX, none]

/-- Row Ex of the map of 30_encoding.md R83: columns x0 to xF. -/
def opcodeRowE : List (Option Instr) :=
  [some .cpxImm, some .sbcIndX, none, none,
   some .cpxZp, some .sbcZp, some .incZp, none,
   some .inx, some .sbcImm, some .nop, none,
   some .cpxAbs, some .sbcAbs, some .incAbs, none]

/-- Row Fx of the map of 30_encoding.md R83: columns x0 to xF. -/
def opcodeRowF : List (Option Instr) :=
  [some .beq, some .sbcIndY, none, none,
   none, some .sbcZpX, some .incZpX, none,
   some .sed, some .sbcAbsY, none, none,
   none, some .sbcAbsX, some .incAbsX, none]

/-- The opcode map of 30_encoding.md R83: rows are the high nibble of the opcode, columns the low one. -/
def opcodeMap : List (List (Option Instr)) :=
  [opcodeRow0, opcodeRow1, opcodeRow2, opcodeRow3, opcodeRow4, opcodeRow5, opcodeRow6, opcodeRow7,
   opcodeRow8, opcodeRow9, opcodeRowA, opcodeRowB, opcodeRowC, opcodeRowD, opcodeRowE, opcodeRowF]

/-- The default dispatch table: opcode byte to instruction, or undefined (30_encoding.md R83, R84). -/
def decodeOpcode (op : Byte) : Option Instr :=
  match opcodeMap[op.toNat / 16]? with
  | some row => (row[op.toNat % 16]?).join
  | none => none

/-- The operand bytes after the opcode: low byte first for `operand16` (30_encoding.md R80, R82). -/
def takeOperand : Format → List Byte → Option (Operand × List Byte)
  | .f1, rest => some (.none, rest)
  | .f2, b :: rest => some (.byte b, rest)
  | .f3, lo :: hi :: rest => some (.addr (word hi lo), rest)
  | .f2, [] | .f3, [] | .f3, [_] => none

/-- The instruction at the head of the bytes, and the bytes after it (30_encoding.md R80). -/
def decode : List Byte → Except DecodeError (Encoded × List Byte)
  | [] => .error .truncated
  | op :: rest =>
    match decodeOpcode op with
    | none => .error (.undefinedOpcode op)
    | some i =>
      match takeOperand (formatOf (modeOf i)) rest with
      | none => .error .truncated
      | some (o, rest') => .ok (⟨i, o⟩, rest')

/-- The longest instruction is three bytes (30_encoding.md R80, format F3). -/
def tableBytes (nbits w : Nat) : List Byte :=
  let v := w % 2 ^ nbits
  [BitVec.ofNat 8 v, BitVec.ofNat 8 (v >>> 8), BitVec.ofNat 8 (v >>> 16)]

/-- The instruction the decoder reads from the bytes of `w`, the first byte in bits 7..0; the bits from
`nbits` up are zero. -/
def decodeTableWord (nbits w : Nat) : Option Instr :=
  match decode (tableBytes nbits w) with
  | .ok (e, _) => some e.instr
  | .error _ => none

/-- The opcode byte of each instruction, from its own rule's encoding list
(41_load_store_transfer.md to 45_stack_flags.md). -/
def opcodeOf : Instr → Byte
  | .ldaImm => 0xA9
  | .ldaZp => 0xA5
  | .ldaZpX => 0xB5
  | .ldaAbs => 0xAD
  | .ldaAbsX => 0xBD
  | .ldaAbsY => 0xB9
  | .ldaIndX => 0xA1
  | .ldaIndY => 0xB1
  | .ldxImm => 0xA2
  | .ldxZp => 0xA6
  | .ldxZpY => 0xB6
  | .ldxAbs => 0xAE
  | .ldxAbsY => 0xBE
  | .ldyImm => 0xA0
  | .ldyZp => 0xA4
  | .ldyZpX => 0xB4
  | .ldyAbs => 0xAC
  | .ldyAbsX => 0xBC
  | .staZp => 0x85
  | .staZpX => 0x95
  | .staAbs => 0x8D
  | .staAbsX => 0x9D
  | .staAbsY => 0x99
  | .staIndX => 0x81
  | .staIndY => 0x91
  | .stxZp => 0x86
  | .stxZpY => 0x96
  | .stxAbs => 0x8E
  | .styZp => 0x84
  | .styZpX => 0x94
  | .styAbs => 0x8C
  | .tax => 0xAA
  | .tay => 0xA8
  | .txa => 0x8A
  | .tya => 0x98
  | .tsx => 0xBA
  | .txs => 0x9A
  | .adcImm => 0x69
  | .adcZp => 0x65
  | .adcZpX => 0x75
  | .adcAbs => 0x6D
  | .adcAbsX => 0x7D
  | .adcAbsY => 0x79
  | .adcIndX => 0x61
  | .adcIndY => 0x71
  | .sbcImm => 0xE9
  | .sbcZp => 0xE5
  | .sbcZpX => 0xF5
  | .sbcAbs => 0xED
  | .sbcAbsX => 0xFD
  | .sbcAbsY => 0xF9
  | .sbcIndX => 0xE1
  | .sbcIndY => 0xF1
  | .cmpImm => 0xC9
  | .cmpZp => 0xC5
  | .cmpZpX => 0xD5
  | .cmpAbs => 0xCD
  | .cmpAbsX => 0xDD
  | .cmpAbsY => 0xD9
  | .cmpIndX => 0xC1
  | .cmpIndY => 0xD1
  | .cpxImm => 0xE0
  | .cpxZp => 0xE4
  | .cpxAbs => 0xEC
  | .cpyImm => 0xC0
  | .cpyZp => 0xC4
  | .cpyAbs => 0xCC
  | .incZp => 0xE6
  | .incZpX => 0xF6
  | .incAbs => 0xEE
  | .incAbsX => 0xFE
  | .decZp => 0xC6
  | .decZpX => 0xD6
  | .decAbs => 0xCE
  | .decAbsX => 0xDE
  | .inx => 0xE8
  | .iny => 0xC8
  | .dex => 0xCA
  | .dey => 0x88
  | .andImm => 0x29
  | .andZp => 0x25
  | .andZpX => 0x35
  | .andAbs => 0x2D
  | .andAbsX => 0x3D
  | .andAbsY => 0x39
  | .andIndX => 0x21
  | .andIndY => 0x31
  | .oraImm => 0x09
  | .oraZp => 0x05
  | .oraZpX => 0x15
  | .oraAbs => 0x0D
  | .oraAbsX => 0x1D
  | .oraAbsY => 0x19
  | .oraIndX => 0x01
  | .oraIndY => 0x11
  | .eorImm => 0x49
  | .eorZp => 0x45
  | .eorZpX => 0x55
  | .eorAbs => 0x4D
  | .eorAbsX => 0x5D
  | .eorAbsY => 0x59
  | .eorIndX => 0x41
  | .eorIndY => 0x51
  | .bitZp => 0x24
  | .bitAbs => 0x2C
  | .aslA => 0x0A
  | .aslZp => 0x06
  | .aslZpX => 0x16
  | .aslAbs => 0x0E
  | .aslAbsX => 0x1E
  | .lsrA => 0x4A
  | .lsrZp => 0x46
  | .lsrZpX => 0x56
  | .lsrAbs => 0x4E
  | .lsrAbsX => 0x5E
  | .rolA => 0x2A
  | .rolZp => 0x26
  | .rolZpX => 0x36
  | .rolAbs => 0x2E
  | .rolAbsX => 0x3E
  | .rorA => 0x6A
  | .rorZp => 0x66
  | .rorZpX => 0x76
  | .rorAbs => 0x6E
  | .rorAbsX => 0x7E
  | .bpl => 0x10
  | .bmi => 0x30
  | .bvc => 0x50
  | .bvs => 0x70
  | .bcc => 0x90
  | .bcs => 0xB0
  | .bne => 0xD0
  | .beq => 0xF0
  | .jmpAbs => 0x4C
  | .jmpInd => 0x6C
  | .jsr => 0x20
  | .rts => 0x60
  | .brk => 0x00
  | .rti => 0x40
  | .nop => 0xEA
  | .pha => 0x48
  | .php => 0x08
  | .pla => 0x68
  | .plp => 0x28
  | .clc => 0x18
  | .sec => 0x38
  | .cli => 0x58
  | .sei => 0x78
  | .cld => 0xD8
  | .sed => 0xF8
  | .clv => 0xB8

/-- The operand bytes, low byte first (30_encoding.md R80). -/
def operandBytes : Operand → List Byte
  | .none => []
  | .byte b => [b]
  | .addr w => [lowByte w, highByte w]

/-- The bytes of an instruction at consecutive increasing addresses (30_encoding.md R80). -/
def encode (e : Encoded) : List Byte := opcodeOf e.instr :: operandBytes e.operand

end Sys2Proof
end

