-- ==== Sys2Proof/Machine/Table.lean ====
section
/-! DEFINITION. A sparse map from numbers to values, as a list in one canonical form: keys strictly
rising, and no entry equal to what an unlisted key reads as. Storage, the page maps, the watch masks
and the dispatch changes are all held this way. -/

namespace Sys2Proof.Machine

/-- Entries in rising order of key. What an unlisted key reads as is given by each use (`d` below). -/
abbrev Table (β : Type) := List (Nat × β)

/-- The value at key `k`; `d k` where `k` is not listed. -/
def tableGet {β : Type} (d : Nat → β) : Table β → Nat → β
  | [], k => d k
  | (k', v) :: t, k => if k = k' then v else tableGet d t k

/-- The table with `v` at `k`; writing what an unlisted key reads as removes the entry. -/
def tableSet {β : Type} [DecidableEq β] (d : Nat → β) : Table β → Nat → β → Table β
  | [], k, v => if v = d k then [] else [(k, v)]
  | (k', v') :: t, k, v =>
    if k < k' then (if v = d k then (k', v') :: t else (k, v) :: (k', v') :: t)
    else if k = k' then (if v = d k then t else (k, v) :: t)
    else (k', v') :: tableSet d t k v

/-- Every key is at least `lo`, keys strictly rise, and no entry equals what its key reads as unlisted. -/
def tableWfFrom {β : Type} [DecidableEq β] (d : Nat → β) : Nat → Table β → Bool
  | _, [] => true
  | lo, (k, v) :: t => decide (lo ≤ k) && decide (v ≠ d k) && tableWfFrom d (k + 1) t

/-- The table is in canonical form. -/
def tableWf {β : Type} [DecidableEq β] (d : Nat → β) (t : Table β) : Bool := tableWfFrom d 0 t

end Sys2Proof.Machine
end

