-- ==== Sys2Proof/Config.lean ====
section
/-! DEFINITION. The implementation parameters of 00_scope.md R9. A model "takes the parameters below as
arguments": here they are a record that State carries and no step changes, so that a statement over all
states is a statement over all parameter values (log 13). -/

namespace Sys2Proof

/-- CLASS (00_scope.md R3, 10_state.md R33). -/
inductive CpuClass where
  | legacy
  | extended
  deriving DecidableEq, Repr, Inhabited

/-- UNDEF_POLICY: what an undefined opcode does (30_encoding.md R84). -/
inductive UndefPolicy where
  | fault
  | nop
  deriving DecidableEq, Repr, Inhabited

/-- ADC_DEC_CARRY: the carry out of decimal-mode ADC (42_arithmetic.md R231, conflict C1). -/
inductive AdcDecCarry where
  | decimal
  | binary
  deriving DecidableEq, Repr, Inhabited

/-- What the host's dispatch table makes of one opcode byte, against the default map of
30_encoding.md R83 (DISPATCH, 00_scope.md R9; log 12). -/
inductive DispatchEntry where
  /-- as opcode_table.json maps it -/
  | table
  /-- not in the host's table: UNDEF_POLICY applies -/
  | undefined
  /-- a handler of the host's own, to which the spec gives no effect -/
  | hostHandler
  deriving DecidableEq, Repr, Inhabited

/-- The parameters of 00_scope.md R9, with the spec's defaults. CLASS is a field of the CPU state. -/
structure Params where
  /-- PAGE_SIZE is `2 ^ pageBits`: every power of two dividing 65536 (R9, 20_memory.md R51). -/
  pageBits : Fin 17 := 8
  /-- DISPATCH: the opcode bytes the host's table does not map as opcode_table.json does. -/
  dispatch : Machine.Table DispatchEntry := []
  undefPolicy : UndefPolicy := .fault
  adcDecCarry : AdcDecCarry := .decimal
  /-- WATCH_BRK_R: position of the breakpoint-on-read bit of a watch mask. -/
  watchBrkR : Fin 8 := 1
  /-- WATCH_BRK_W: position of the breakpoint-on-write bit of a watch mask. -/
  watchBrkW : Fin 8 := 2
  resetA : Byte := 0
  resetX : Byte := 0
  resetY : Byte := 0
  resetN : Bool := false
  resetV : Bool := false
  resetZ : Bool := false
  resetC : Bool := false
  /-- which of the "up to three function references" the host has set (20_memory.md R54, R59) -/
  hasOnRead : Bool := false
  hasOnWrite : Bool := false
  hasOnBreakpoint : Bool := false
  deriving DecidableEq, Repr, Inhabited

end Sys2Proof
end

