-- ==== Sys2Proof/Machine/State.lean ====
section
/-! DEFINITION. The state of the machine, the ways a step stops, and the state after reset. -/

namespace Sys2Proof.Machine

/-- The six flags (10_state.md R25). Bits 4 and 5 of the status byte are constants and need no field
(10_state.md R26). -/
structure Flags where
  n : Bool
  v : Bool
  d : Bool
  i : Bool
  z : Bool
  c : Bool
  deriving DecidableEq, Repr, Inhabited

/-- The CPU state (10_state.md R20 to R25, R32, R33). -/
structure Cpu where
  a : Byte
  x : Byte
  y : Byte
  pc : Addr
  /-- stored as 16 bits, "constrained to 0x100–0x1FF" (R24) -/
  sp : Addr
  flags : Flags
  /-- unbounded (R32) -/
  cycles : Nat
  cls : CpuClass
  deriving DecidableEq, Repr, Inhabited

/-- Bytes of the storage blocks, keyed by `block * PAGE_SIZE + offset` (20_memory.md R52). -/
abbrev Memory := List Host.Cell

/-- What the host owns and a bus access works on: `H` of 20_memory.md R54, with the interrupt request
lines of 60_exceptions.md R404. -/
structure HostState where
  storage : Memory
  /-- page to block, or absent (20_memory.md R51, R52) -/
  readMap : Table (Option Nat)
  writeMap : Table (Option Nat)
  /-- whether `watch(page)` is present (R52) -/
  watchPages : Table Bool
  /-- the watch mask of each address (R53) -/
  watchMask : Table Byte
  /-- level of the IRQ request line (60_exceptions.md R404) -/
  irq : Bool
  /-- an NMI edge has arrived and has not been taken (60_exceptions.md R404) -/
  nmi : Bool
  /-- "everything else the host owns" (20_memory.md R54), as one number -/
  dev : Nat
  deriving DecidableEq, Repr, Inhabited

/-- Which entry a step made (60_exceptions.md R404: "A step also reports which of `took = nmi`,
`took = irq` or `took = none` happened"). -/
inductive Took where
  | none
  | irq
  | nmi
  deriving DecidableEq, Repr, Inhabited

/-- One bus access: one `cN:` line of a sequence (00_scope.md R14). -/
inductive BusAccess where
  | read (addr : Addr) (value : Byte)
  | write (addr : Addr) (value : Byte)
  deriving DecidableEq, Repr, Inhabited

/-- The whole machine. `took` and `bus` report on the step that led here; nothing reads them (log 8). -/
structure State where
  cpu : Cpu
  host : HostState
  params : Params
  took : Took
  bus : List BusAccess
  deriving DecidableEq, Repr, Inhabited

/-- The faults of 60_exceptions.md R400. Each carries the state "as it stands after the last completed
bus access". All are SAFE: the machine stops where the host's contract is broken or its policy says so. -/
inductive Fault where
  /-- Raised by a bus access, DebugRead or the reset vector read that hits a page with no table entry
  (20_memory.md R58). Safe. -/
  | unmappedPage (addr : Addr) (at_ : State)
  /-- Raised by a bus access that finds a watch bit set whose callback is unset (20_memory.md R59).
  Safe. -/
  | missingCallback (addr : Addr) (at_ : State)
  /-- Raised by a step on an opcode byte outside the dispatch table under `UNDEF_POLICY = fault`
  (30_encoding.md R84). Safe. -/
  | undefinedOpcode (op : Byte) (addr : Addr) (at_ : State)
  deriving DecidableEq, Repr

/-- Why the model gives a step no meaning. -/
inductive Refusal where
  /-- Raised by an arm of `exec` whose instruction has no meaning yet; no arm does. Safe. -/
  | notModelled (mnemonic : String)
  /-- `Refused(CallbackReentry)`: raised by a bus access whose callback invoked CPU execution
  (20_memory.md R70, 60_exceptions.md R400). Safe. -/
  | callbackReentry (addr : Addr)
  /-- Raised by a step on an opcode byte that the host's dispatch table maps to a handler of its own
  (30_encoding.md R84: "the spec then holds only for the bytes it still maps as here"; log 12). Safe. -/
  | hostHandler (op : Byte)
  deriving DecidableEq, Repr

/-- The machine right after reset (10_state.md R37) with every parameter at its default and storage and
tables as logs 1 to 3 say: nothing listed, so the reset vector reads 0x0000. -/
def State.reset : State where
  cpu :=
    { a := 0x00, x := 0x00, y := 0x00, pc := 0x0000, sp := 0x01FD
      flags := { n := false, v := false, d := false, i := true, z := false, c := false }
      cycles := 0, cls := .legacy }
  host :=
    { storage := [], readMap := [], writeMap := [], watchPages := [], watchMask := []
      irq := false, nmi := false, dev := 0 }
  params := {}
  took := .none
  bus := []

end Sys2Proof.Machine
end

