-- ==== Sys2Proof/Machine/Flags.lean ====
section
/-! DEFINITION. Every flag computation and every byte computation of the ALU, as functions of the flags
and the operand bytes: the status byte (10_state.md R27), `assign`'s N and Z (R28), the ALU helpers of
42_arithmetic.md R230 to R234, and the bodies of 42_arithmetic.md and 43_logic_shift.md. -/

namespace Sys2Proof.Machine

/-- `PackP(b)`: N V 1 B D I Z C, bit 7 first (10_state.md R27). -/
def packP (b : Bool) (f : Flags) : Byte :=
  BitVec.ofBool f.n ++ BitVec.ofBool f.v ++ 1#1 ++ BitVec.ofBool b ++
    BitVec.ofBool f.d ++ BitVec.ofBool f.i ++ BitVec.ofBool f.z ++ BitVec.ofBool f.c

/-- `UnpackP(p)`: bits 5 and 4 are discarded (10_state.md R27, 40_pipelines.md R110). -/
def unpackP (p : Byte) : Flags :=
  { n := bit p 7, v := bit p 6, d := bit p 3, i := bit p 2, z := bit p 1, c := bit p 0 }

/-- The flag half of `assign`: `N <- v[7]; Z <- bool(v == 0)` (10_state.md R28). -/
def Flags.setNZ (f : Flags) (v : Byte) : Flags := { f with n := bit v 7, z := v == 0 }

def Flags.setV (f : Flags) (b : Bool) : Flags := { f with v := b }
def Flags.setD (f : Flags) (b : Bool) : Flags := { f with d := b }
def Flags.setI (f : Flags) (b : Bool) : Flags := { f with i := b }
def Flags.setC (f : Flags) (b : Bool) : Flags := { f with c := b }

/-- `decimal_adjust_add` (42_arithmetic.md R231): the corrected accumulator, and the flags with C
replaced by the final decimal carry where ADC_DEC_CARRY says so. `a` is A_old, `c` the carry in, `f` the
flags of the binary path. -/
def decimalAdjustAdd (dc : AdcDecCarry) (a v : Byte) (c : Nat) (f : Flags) : Byte × Flags :=
  let lo := a.toNat % 16 + v.toNat % 16 + c
  let lc := decide (lo > 9)
  let loDigit := (lo + if lc then 6 else 0) % 16
  let hi := a.toNat / 16 + v.toNat / 16 + lc.toNat
  let hc := decide (hi > 9)
  let hiDigit := (hi + if hc then 6 else 0) % 16
  (BitVec.ofNat 8 (hiDigit * 16 + loDigit),
    match dc with
    | .decimal => f.setC hc
    | .binary => f)

/-- `add_with_carry(v)` (42_arithmetic.md R230, R231): the new accumulator and flags. -/
def addWithCarry (dc : AdcDecCarry) (f : Flags) (a v : Byte) : Byte × Flags :=
  let s := a.toNat + v.toNat + f.c.toNat
  let b := BitVec.ofNat 8 s
  let binary := ((f.setNZ b).setV (((a ^^^ b) &&& ~~~(a ^^^ v) &&& 0x80#8) != 0)).setC (s.testBit 8)
  if f.d then decimalAdjustAdd dc a v f.c.toNat binary else (b, binary)

/-- `decimal_adjust_sub` (42_arithmetic.md R233): the corrected accumulator. `bi` is the borrow in. -/
def decimalAdjustSub (a v : Byte) (bi : Nat) : Byte :=
  let lo : Int := (a.toNat % 16 : Nat) - (v.toNat % 16 : Nat) - bi
  let lb := decide (lo < 0)
  let loDigit := (lo - if lb then 6 else 0) % 16
  let hi : Int := (a.toNat / 16 : Nat) - (v.toNat / 16 : Nat) - lb.toNat
  let hb := decide (hi < 0)
  let hiDigit := (hi - if hb then 6 else 0) % 16
  BitVec.ofInt 8 (hiDigit * 16 + loDigit)

/-- `subtract_with_borrow(v)` (42_arithmetic.md R232, R233): the new accumulator and flags. -/
def subtractWithBorrow (f : Flags) (a v : Byte) : Byte × Flags :=
  let bi := 1 - f.c.toNat
  let s : Int := (a.toNat : Int) - v.toNat - bi
  let b := BitVec.ofInt 8 s
  let binary := ((f.setNZ b).setV (((a ^^^ b) &&& (a ^^^ v) &&& 0x80#8) != 0)).setC (decide (s ≥ 0))
  (if f.d then decimalAdjustSub a v bi else b, binary)

/-- `compare(l, r)` (42_arithmetic.md R234). -/
def compareFlags (f : Flags) (l r : Byte) : Flags :=
  { f with z := l == r, c := decide (l.toNat ≥ r.toNat), n := bit (l - r) 7 }

/-- BIT: N and V from memory, Z from `A & m` (43_logic_shift.md R263). -/
def bitFlags (f : Flags) (a m : Byte) : Flags :=
  { f with n := bit m 7, v := bit m 6, z := a &&& m == 0 }

/-- INC's `f` (42_arithmetic.md R240). -/
def incByte (f : Flags) (v : Byte) : Byte × Flags := (v + 1, f.setNZ (v + 1))

/-- DEC's `f` (42_arithmetic.md R241). -/
def decByte (f : Flags) (v : Byte) : Byte × Flags := (v - 1, f.setNZ (v - 1))

/-- ASL's `f` (43_logic_shift.md R264). -/
def aslByte (f : Flags) (v : Byte) : Byte × Flags :=
  let r := v <<< 1
  (r, (f.setC (bit v 7)).setNZ r)

/-- LSR's `f` (43_logic_shift.md R265). -/
def lsrByte (f : Flags) (v : Byte) : Byte × Flags :=
  let r := v >>> 1
  (r, (f.setC (bit v 0)).setNZ r)

/-- ROL's `f` (43_logic_shift.md R266). -/
def rolByte (f : Flags) (v : Byte) : Byte × Flags :=
  let r := (v <<< 1) ||| (BitVec.ofBool f.c).setWidth 8
  (r, (f.setC (bit v 7)).setNZ r)

/-- ROR's `f` (43_logic_shift.md R267). -/
def rorByte (f : Flags) (v : Byte) : Byte × Flags :=
  let r := (v >>> 1) ||| ((BitVec.ofBool f.c).setWidth 8 <<< 7)
  (r, (f.setC (bit v 0)).setNZ r)

end Sys2Proof.Machine
end

