-- ==== Sys2Proof/Machine/HostState.lean ====
section
/-! DEFINITION. The host's side: what an unlisted table entry reads as, the changes a host may make,
and the three callbacks (20_memory.md R51 to R54). -/

namespace Sys2Proof.Machine

/-- What an unlisted byte of storage reads as (log 1). -/
def freshByte (_cell : Nat) : Byte := 0x00

/-- What an unlisted page maps to: a block of its own, the same for reads and writes (log 2). -/
def freshBlock (page : Nat) : Option Nat := some page

/-- An unlisted page has a watch entry (log 2). -/
def freshWatchPage (_page : Nat) : Bool := true

/-- An unlisted address has no watch bit set (log 2). -/
def freshMask (_addr : Nat) : Byte := 0x00

/-- An unlisted opcode byte is dispatched as opcode_table.json says (00_scope.md R9 `DISPATCH`). -/
def freshDispatch (_op : Nat) : DispatchEntry := .table

/-- The storage is in canonical form. -/
def Memory.wf (m : Memory) : Bool := tableWf freshByte m

/-- Storage and the host's tables are in canonical form. -/
def HostState.wf (h : HostState) : Bool :=
  Memory.wf h.storage && tableWf freshBlock h.readMap && tableWf freshBlock h.writeMap &&
    tableWf freshWatchPage h.watchPages && tableWf freshMask h.watchMask

/-- One change the host may make, between steps or from a callback: "a callback may change any table or
any stored byte" (20_memory.md R51), the interrupt lines (60_exceptions.md R404), or anything else the
host owns. -/
inductive HostEdit where
  | storeCell (cell : Nat) (v : Byte)
  | mapRead (page : Nat) (block : Option Nat)
  | mapWrite (page : Nat) (block : Option Nat)
  | watchPage (page : Nat) (present : Bool)
  | watchMask (addr : Addr) (mask : Byte)
  | irq (level : Bool)
  | nmi (pending : Bool)
  | dev (value : Nat)
  deriving DecidableEq, Repr, Inhabited

def HostState.edit (h : HostState) : HostEdit → HostState
  | .storeCell k v => { h with storage := tableSet freshByte h.storage k v }
  | .mapRead p b => { h with readMap := tableSet freshBlock h.readMap p b }
  | .mapWrite p b => { h with writeMap := tableSet freshBlock h.writeMap p b }
  | .watchPage p b => { h with watchPages := tableSet freshWatchPage h.watchPages p b }
  | .watchMask a m => { h with watchMask := tableSet freshMask h.watchMask a.toNat m }
  | .irq b => { h with irq := b }
  | .nmi b => { h with nmi := b }
  | .dev n => { h with dev := n }

/-- Several changes, in order. -/
def HostState.edits (h : HostState) (es : List HostEdit) : HostState := es.foldl HostState.edit h

/-- How a callback ends: it returns, having changed host state only (20_memory.md R54), or it has invoked
CPU execution (R70). -/
inductive CallbackResult (α : Type) where
  | returned (value : α) (edits : List HostEdit)
  | reentered
  deriving Repr, Inhabited

end Sys2Proof.Machine

namespace Sys2Proof

open Machine

/-- `on_read(addr) -> byte` over the host state (20_memory.md R54). FREE: the host supplies it
(93_implementation_defined.md U15; log 5). -/
opaque Config.onRead : HostState → Addr → CallbackResult Byte

/-- `on_write(addr, value)` over the host state (20_memory.md R54). FREE (log 5). -/
opaque Config.onWrite : HostState → Addr → Byte → CallbackResult Unit

/-- `on_breakpoint(addr)` over the host state and what it sees of the CPU (20_memory.md R54,
93_implementation_defined.md U2). FREE (log 5). -/
opaque Config.onBreakpoint : HostState → Cpu → Addr → CallbackResult Unit

end Sys2Proof
end

