-- ==== Sys2Proof/Machine/Ops.lean ====
section
/-! DEFINITION. The named operations over registers and memory: register updates, the memory access layer
(20_memory.md), the one-cycle primitives (40_pipelines.md R101 to R110), and taking and leaving an
interrupt (44_control.md R304, R305, 60_exceptions.md R408). -/

namespace Sys2Proof.Machine

/-- The outcome of an operation that yields a value and a state. -/
abbrev Res (α : Type) := Host.Outcome (α × State) Fault Refusal

/-- The outcome of an instruction. -/
abbrev Out := Host.Outcome State Fault Refusal

/-- Runs the second operation after the first; a fault or a refusal ends the instruction
(41_load_store_transfer.md R199). -/
def andThen {α β : Type} (o : Res α) (k : α → State → Host.Outcome β Fault Refusal) :
    Host.Outcome β Fault Refusal :=
  match o with
  | .next (v, s) => k v s
  | .fault r => .fault r
  | .refused r => .refused r

/-! ### Registers -/

def State.setA (s : State) (v : Byte) : State := { s with cpu := { s.cpu with a := v } }
def State.setX (s : State) (v : Byte) : State := { s with cpu := { s.cpu with x := v } }
def State.setY (s : State) (v : Byte) : State := { s with cpu := { s.cpu with y := v } }
def State.setPc (s : State) (v : Addr) : State := { s with cpu := { s.cpu with pc := v } }
def State.setSp (s : State) (v : Addr) : State := { s with cpu := { s.cpu with sp := v } }
def State.setFlags (s : State) (f : Flags) : State := { s with cpu := { s.cpu with flags := f } }
def State.setHost (s : State) (h : HostState) : State := { s with host := h }
def State.setTook (s : State) (t : Took) : State := { s with took := t }
def State.clearBus (s : State) : State := { s with bus := [] }

/-- One bus cycle has been made: `cycles` counts it (10_state.md R32) and the step reports it. -/
def State.tick (s : State) (e : BusAccess) : State :=
  { s with cpu := { s.cpu with cycles := s.cpu.cycles + 1 }, bus := s.bus ++ [e] }

/-- `assign(A, v)` (10_state.md R28). -/
def assignA (v : Byte) (s : State) : State := (s.setA v).setFlags (s.cpu.flags.setNZ v)

/-- `assign(X, v)` (10_state.md R28). -/
def assignX (v : Byte) (s : State) : State := (s.setX v).setFlags (s.cpu.flags.setNZ v)

/-- `assign(Y, v)` (10_state.md R28). -/
def assignY (v : Byte) (s : State) : State := (s.setY v).setFlags (s.cpu.flags.setNZ v)

/-! ### The memory access layer (20_memory.md) -/

def pageSize (s : State) : Nat := 2 ^ s.params.pageBits.val

/-- `page = address / page_size` (R51). -/
def pageOf (s : State) (a : Addr) : Nat := a.toNat / pageSize s

/-- `offset = address % page_size` (R51). -/
def offsetOf (s : State) (a : Addr) : Nat := a.toNat % pageSize s

/-- The cell of storage that a byte of a block is held in (R52). -/
def cellIn (s : State) (block : Nat) (a : Addr) : Nat := block * pageSize s + offsetOf s a

/-- The cell that a raw read of `a` takes, where `readMap` names a block for its page (R52, R55). -/
def readCell (s : State) (a : Addr) : Option Nat :=
  (tableGet freshBlock s.host.readMap (pageOf s a)).map (cellIn s · a)

/-- The cell that a raw store to `a` goes to, where `writeMap` names a block for its page (R52, R56). -/
def writeCell (s : State) (a : Addr) : Option Nat :=
  (tableGet freshBlock s.host.writeMap (pageOf s a)).map (cellIn s · a)

/-- The byte in a cell of storage. -/
def cellByte (s : State) (cell : Nat) : Byte := tableGet freshByte s.host.storage cell

/-- The byte a raw read of `a` gives, where its page is mapped (R55, R57). -/
def peek (s : State) (a : Addr) : Option Byte := (readCell s a).map (cellByte s)

def storeCell (s : State) (cell : Nat) (v : Byte) : State := s.setHost (s.host.edit (.storeCell cell v))

/-- The watch mask of `a` (R53). -/
def maskOf (s : State) (a : Addr) : Byte := tableGet freshMask s.host.watchMask a.toNat

def watchPresent (s : State) (a : Addr) : Bool := tableGet freshWatchPage s.host.watchPages (pageOf s a)

/-- WATCH_INTERCEPT: bit 0, for reads and writes (R53). -/
def intercepts (m : Byte) : Bool := bit m 0

/-- WATCH_BRK_R (R53). -/
def breaksOnRead (s : State) (m : Byte) : Bool := bit m s.params.watchBrkR.val

/-- WATCH_BRK_W (R53). -/
def breaksOnWrite (s : State) (m : Byte) : Bool := bit m s.params.watchBrkW.val

/-- `DebugRead(addr)`: raw storage, no callback, no cycle (R57). -/
def debugRead (a : Addr) (s : State) : Res Byte :=
  match peek s a with
  | some v => .next (v, s)
  | none => .fault (.unmappedPage a s)

/-- A raw store, "map as it stands after the callbacks" (R56). -/
def rawStore (a : Addr) (v : Byte) (s : State) : Res Unit :=
  match writeCell s a with
  | some cell => .next ((), storeCell s cell v)
  | none => .fault (.unmappedPage a s)

/-- What a callback's end means for the step: its changes of host state are made, or the run is refused
(R54, R70). -/
def afterCallback {α : Type} (a : Addr) (s : State) : CallbackResult α → Res α
  | .returned v es => .next (v, s.setHost (s.host.edits es))
  | .reentered => .refused (.callbackReentry a)

/-- Invokes the breakpoint callback if `on` (R55, R56). -/
def breakpointIf (on : Bool) (a : Addr) (s : State) : Res Unit :=
  if on then afterCallback a s (Config.onBreakpoint s.host s.cpu a) else .next ((), s)

/-- The fault a read of `a` raises before it does anything (R55, R58, R59). -/
def readFault (a : Addr) (s : State) : Option Fault :=
  if !watchPresent s a || (readCell s a).isNone then some (.unmappedPage a s)
  else if (intercepts (maskOf s a) && !s.params.hasOnRead) ||
      (breaksOnRead s (maskOf s a) && !s.params.hasOnBreakpoint) then some (.missingCallback a s)
  else none

/-- The fault a write of `a` raises before it does anything (R56, R58, R59). -/
def writeFault (a : Addr) (s : State) : Option Fault :=
  if !watchPresent s a || (writeCell s a).isNone then some (.unmappedPage a s)
  else if (intercepts (maskOf s a) && !s.params.hasOnWrite) ||
      (breaksOnWrite s (maskOf s a) && !s.params.hasOnBreakpoint) then some (.missingCallback a s)
  else none

/-- `MemRead(addr, 1)`: one bus read cycle (R55). -/
def memRead (a : Addr) (s : State) : Res Byte :=
  match readFault a s with
  | some f => .fault f
  | none =>
    let m := maskOf s a
    andThen (breakpointIf (breaksOnRead s m) a s) fun _ s =>
    andThen (if intercepts m then afterCallback a s (Config.onRead s.host a) else debugRead a s) fun v s =>
    .next (v, s.tick (.read a v))

/-- `MemWrite(addr, 1, v)`: one bus write cycle (R56). -/
def memWrite (a : Addr) (v : Byte) (s : State) : Res Unit :=
  match writeFault a s with
  | some f => .fault f
  | none =>
    let m := maskOf s a
    andThen (if intercepts m then afterCallback a s (Config.onWrite s.host a v) else .next ((), s)) fun _ s =>
    andThen (breakpointIf (breaksOnWrite s m) a s) fun _ s =>
    andThen (if intercepts m then .next ((), s) else rawStore a v s) fun _ s =>
    .next ((), s.tick (.write a v))

/-! ### Primitives (40_pipelines.md section 2) -/

/-- `DummyRead(addr)`: a full bus read whose value is discarded (00_scope.md R12). -/
def dummyRead (a : Addr) (s : State) : Res Unit :=
  andThen (memRead a s) fun _ s => .next ((), s)

/-- `FetchByte()` and `FetchOpcode()`: read at PC, then PC + 1 modulo 0x10000 (R101, R102). -/
def fetchByte (s : State) : Res Byte :=
  andThen (memRead s.cpu.pc s) fun v s => .next (v, s.setPc (s.cpu.pc + 1))

/-- `DummyReadPC()` (R103). -/
def dummyReadPc (s : State) : Res Unit := dummyRead s.cpu.pc s

/-- `DummyReadStack()` (R108). -/
def dummyReadStack (s : State) : Res Unit := dummyRead s.cpu.sp s

/-- SP one lower, wrapping inside page 1 (R106). -/
def spDown (sp : Addr) : Addr := word 0x01 (lowByte sp - 1)

/-- SP one higher, wrapping inside page 1 (R107). -/
def spUp (sp : Addr) : Addr := word 0x01 (lowByte sp + 1)

/-- `Push(v)`: write at SP, then decrement SP (R106). -/
def push (v : Byte) (s : State) : Res Unit :=
  andThen (memWrite s.cpu.sp v s) fun _ s => .next ((), s.setSp (spDown s.cpu.sp))

/-- `Pull()`: increment SP, then read at it (R107; a read that faults leaves SP incremented, log 11). -/
def pull (s : State) : Res Byte :=
  let s := s.setSp (spUp s.cpu.sp)
  memRead s.cpu.sp s

/-- `PushFlags(b)` (R109). -/
def pushFlags (b : Bool) (s : State) : Res Unit := push (packP b s.cpu.flags) s

/-- `PullFlags()` (R110). -/
def pullFlags (s : State) : Res Unit :=
  andThen (pull s) fun p s => .next ((), s.setFlags (unpackP p))

/-! ### Taking an interrupt and returning from one -/

def nmiVector : Addr := 0xFFFA
def resetVector : Addr := 0xFFFC
def irqVector : Addr := 0xFFFE

/-- The shared tail of BRK (44_control.md R304, c3 to c7) and of IRQ and NMI entry (60_exceptions.md R408,
c3 to c7): push PC high, PC low and the status byte with B = `b`, set I, and load PC from the vector. -/
def enterHandler (b : Bool) (vec : Addr) (s : State) : Out :=
  andThen (push (highByte s.cpu.pc) s) fun _ s =>
  andThen (push (lowByte s.cpu.pc) s) fun _ s =>
  andThen (pushFlags b s) fun _ s =>
  let s := s.setFlags (s.cpu.flags.setI true)
  andThen (memRead vec s) fun lo s =>
  andThen (memRead (vec + 1) s) fun hi s =>
  .next (s.setPc (word hi lo))

/-- `InterruptEntry(vec)` (60_exceptions.md R408). -/
def interruptEntry (vec : Addr) (s : State) : Out :=
  andThen (dummyReadPc s) fun _ s =>
  andThen (dummyReadPc s) fun _ s =>
  enterHandler false vec s

/-- RTI's c3 to c6: pull the status byte, then PC low and high; PC is not incremented
(44_control.md R305). -/
def returnFromHandler (s : State) : Out :=
  andThen (dummyReadStack s) fun _ s =>
  andThen (pullFlags s) fun _ s =>
  andThen (pull s) fun lo s =>
  andThen (pull s) fun hi s =>
  .next (s.setPc (word hi lo))

/-! ### Operations of the host between steps -/

/-- `Reset(s, H)` (70_reset_and_hazards.md R450): no bus access, no callback, no cycle; host state and
class are unchanged. May be applied to any state, a fault's among them. The low byte of the vector is read
first (log 15). -/
def hostReset (s : State) : Out :=
  let p := s.params
  let s : State :=
    { s with
      cpu :=
        { a := p.resetA, x := p.resetX, y := p.resetY, pc := s.cpu.pc, sp := 0x01FD
          flags := { n := p.resetN, v := p.resetV, d := false, i := true, z := p.resetZ, c := p.resetC }
          cycles := 0, cls := s.cpu.cls }
      took := .none
      bus := [] }
  andThen (debugRead resetVector s) fun lo s =>
  andThen (debugRead (resetVector + 1) s) fun hi s =>
  .next (s.setPc (word hi lo))

/-- The state a fault carries (60_exceptions.md R400). -/
def Fault.state : Fault → State
  | .unmappedPage _ s => s
  | .missingCallback _ s => s
  | .undefinedOpcode _ _ s => s

/-- A change the host makes between two steps (20_memory.md R65, 60_exceptions.md R404). -/
def hostEdit (e : HostEdit) (s : State) : State := s.setHost (s.host.edit e)

end Sys2Proof.Machine
end

