-- ==== Sys2Proof/Machine/Operands.lean ====
section
/-! DEFINITION. The addressing-mode pipelines (40_pipelines.md R111 to R114, R120 to R128), from cycle c2
on: c1 has fetched the opcode. Operand bytes, pointers and effective addresses are local variables of the
step, as R130 allows (log 10). -/

namespace Sys2Proof.Machine

/-- `crossed(base, idx)`: the low-byte sum carries out of bits 7..0 (R112). -/
def crossed (base : Addr) (idx : Byte) : Bool := decide ((lowByte base).toNat + idx.toNat > 0xFF)

/-- The indexed address whose high byte is not yet fixed (R111). -/
def wrapped (base : Addr) (idx : Byte) : Addr := word (highByte base) (lowByte base + idx)

/-- The address `IndexedDummyRead(base, idx)` reads, selected by class on a page cross (R111). -/
def indexedDummyTarget (cls : CpuClass) (pc base : Addr) (idx : Byte) : Addr :=
  if crossed base idx then
    match cls with
    | .legacy => wrapped base idx
    | .extended => pc - 1
  else wrapped base idx

/-- `IndexedDummyRead(base, idx)` (R111). -/
def indexedDummyRead (base : Addr) (idx : Byte) (s : State) : Res Unit :=
  dummyRead (indexedDummyTarget s.cpu.cls s.cpu.pc base idx) s

/-- The penalty cycle of the read kind: taken only on a page cross (R125, R128). -/
def dummyIfCrossed (base : Addr) (idx : Byte) (s : State) : Res Unit :=
  if crossed base idx then indexedDummyRead base idx s else .next ((), s)

/-! ### Effective addresses -/

/-- R122, c2. -/
def eaZp (s : State) : Res Addr :=
  andThen (fetchByte s) fun b s => .next (zext b, s)

/-- R123, c2 and c3: the dummy read of the unindexed address; the sum wraps inside page 0. -/
def eaZpIndexed (idx : Cpu → Byte) (s : State) : Res Addr :=
  andThen (fetchByte s) fun b s =>
  andThen (dummyRead (zext b) s) fun _ s =>
  .next (zext (b + idx s.cpu), s)

/-- R124, c2 and c3. -/
def eaAbs (s : State) : Res Addr :=
  andThen (fetchByte s) fun lo s =>
  andThen (fetchByte s) fun hi s =>
  .next (word hi lo, s)

/-- R125: absolute indexed, read kind. -/
def eaAbsIndexedRead (idx : Cpu → Byte) (s : State) : Res Addr :=
  andThen (eaAbs s) fun base s =>
  andThen (dummyIfCrossed base (idx s.cpu) s) fun _ s =>
  .next (base + zext (idx s.cpu), s)

/-- R126: absolute indexed, write and rmw kinds; the penalty cycle is always taken. -/
def eaAbsIndexedWrite (idx : Cpu → Byte) (s : State) : Res Addr :=
  andThen (eaAbs s) fun base s =>
  andThen (indexedDummyRead base (idx s.cpu) s) fun _ s =>
  .next (base + zext (idx s.cpu), s)

/-- The word at a zero-page pointer, low byte first; the pointer wraps inside page 0 (R127, R128). -/
def zeroPageWord (p : Byte) (s : State) : Res Addr :=
  andThen (memRead (zext p) s) fun lo s =>
  andThen (memRead (zext (p + 1)) s) fun hi s =>
  .next (word hi lo, s)

/-- R127: `(zp,X)`. -/
def eaIndX (s : State) : Res Addr :=
  andThen (fetchByte s) fun b s =>
  andThen (dummyRead (zext b) s) fun _ s =>
  zeroPageWord (b + s.cpu.x) s

/-- R128: `(zp),Y`, read kind. -/
def eaIndYRead (s : State) : Res Addr :=
  andThen (fetchByte s) fun p s =>
  andThen (zeroPageWord p s) fun base s =>
  andThen (dummyIfCrossed base s.cpu.y s) fun _ s =>
  .next (base + zext s.cpu.y, s)

/-- R128: `(zp),Y`, write kind; the penalty cycle is always taken. -/
def eaIndYWrite (s : State) : Res Addr :=
  andThen (fetchByte s) fun p s =>
  andThen (zeroPageWord p s) fun base s =>
  andThen (indexedDummyRead base s.cpu.y s) fun _ s =>
  .next (base + zext s.cpu.y, s)

/-! ### Kinds (R114): what the instruction does once the effective address is known -/

/-- Implied: c2 is the dummy read at PC, then the body on registers only (R120). -/
def implied (body : State → State) (s : State) : Out :=
  andThen (dummyReadPc s) fun _ s => .next (body s)

/-- Immediate, read kind (R121). -/
def immediate (body : Byte → State → State) (s : State) : Out :=
  andThen (fetchByte s) fun v s => .next (body v s)

/-- Read kind: `ReadEA` is the last access, then the body (R104, R114). -/
def readKind (ea : State → Res Addr) (body : Byte → State → State) (s : State) : Out :=
  andThen (ea s) fun addr s =>
  andThen (memRead addr s) fun v s =>
  .next (body v s)

/-- Write kind: `value()` is read at the write cycle (R105, R114). -/
def writeKind (ea : State → Res Addr) (value : Cpu → Byte) (s : State) : Out :=
  andThen (ea s) fun addr s =>
  andThen (memWrite addr (value s.cpu) s) fun _ s =>
  .next s

/-- `RMWTail(f)`: read, dummy write of the old value, write of the new one, then the flags (R113). -/
def rmwTail (f : Flags → Byte → Byte × Flags) (addr : Addr) (s : State) : Out :=
  andThen (memRead addr s) fun v s =>
  andThen (memWrite addr v s) fun _ s =>
  let r := f s.cpu.flags v
  andThen (memWrite addr r.1 s) fun _ s =>
  .next (s.setFlags r.2)

/-- Rmw kind (R113, R114). -/
def rmwKind (ea : State → Res Addr) (f : Flags → Byte → Byte × Flags) (s : State) : Out :=
  andThen (ea s) fun addr s => rmwTail f addr s

/-- Accumulator form of a shift: `A <- f(A)` with the flags `f` writes (R120). -/
def onAccumulator (f : Flags → Byte → Byte × Flags) (s : State) : State :=
  let r := f s.cpu.flags s.cpu.a
  (s.setA r.1).setFlags r.2

/-- `branch(cond)` (44_control.md R290). The condition is read at the start of the instruction. -/
def branch (cond : Flags → Bool) (s : State) : Out :=
  let taken := cond s.cpu.flags
  andThen (fetchByte s) fun off s =>
  if !taken then .next s
  else
    andThen (dummyReadPc s) fun _ s =>
    let target := s.cpu.pc + sext off
    let stale := word (highByte s.cpu.pc) (lowByte target)
    andThen (if highByte target ≠ highByte s.cpu.pc then dummyRead stale s else .next ((), s)) fun _ s =>
    .next (s.setPc target)

end Sys2Proof.Machine
end

