-- ==== Sys2Proof/Machine/Arithmetic.lean ====
section
/-! DEFINITION. Add, subtract, compare, increment and decrement (42_arithmetic.md R230 to R245). Each meaning runs from cycle c2, with PC at the byte
after the opcode. -/

namespace Sys2Proof.Machine

/-- `body(v) = add_with_carry(v)` (R230, R231, R235). -/
def adcBody (v : Byte) (s : State) : State :=
  let r := addWithCarry s.params.adcDecCarry s.cpu.flags s.cpu.a v
  (s.setA r.1).setFlags r.2

/-- `body(v) = subtract_with_borrow(v)` (R232, R233, R236). -/
def sbcBody (v : Byte) (s : State) : State :=
  let r := subtractWithBorrow s.cpu.flags s.cpu.a v
  (s.setA r.1).setFlags r.2

/-- `body(v) = compare(R, v)`; no register is written (R234, R237 to R239). -/
def compareBody (reg : Cpu → Byte) (v : Byte) (s : State) : State :=
  s.setFlags (compareFlags s.cpu.flags (reg s.cpu) v)

/-- ADC #$nn (R235, R121). -/
def execAdcImm (s : State) : Out := immediate adcBody s

/-- ADC $nn (R235, R122). -/
def execAdcZp (s : State) : Out := readKind eaZp adcBody s

/-- ADC $nn,X (R235, R123). -/
def execAdcZpX (s : State) : Out := readKind (eaZpIndexed (·.x)) adcBody s

/-- ADC $nnnn (R235, R124). -/
def execAdcAbs (s : State) : Out := readKind eaAbs adcBody s

/-- ADC $nnnn,X (R235, R125). -/
def execAdcAbsX (s : State) : Out := readKind (eaAbsIndexedRead (·.x)) adcBody s

/-- ADC $nnnn,Y (R235, R125). -/
def execAdcAbsY (s : State) : Out := readKind (eaAbsIndexedRead (·.y)) adcBody s

/-- ADC ($nn,X) (R235, R127). -/
def execAdcIndX (s : State) : Out := readKind eaIndX adcBody s

/-- ADC ($nn),Y (R235, R128). -/
def execAdcIndY (s : State) : Out := readKind eaIndYRead adcBody s

/-- SBC #$nn (R236, R121). -/
def execSbcImm (s : State) : Out := immediate sbcBody s

/-- SBC $nn (R236, R122). -/
def execSbcZp (s : State) : Out := readKind eaZp sbcBody s

/-- SBC $nn,X (R236, R123). -/
def execSbcZpX (s : State) : Out := readKind (eaZpIndexed (·.x)) sbcBody s

/-- SBC $nnnn (R236, R124). -/
def execSbcAbs (s : State) : Out := readKind eaAbs sbcBody s

/-- SBC $nnnn,X (R236, R125). -/
def execSbcAbsX (s : State) : Out := readKind (eaAbsIndexedRead (·.x)) sbcBody s

/-- SBC $nnnn,Y (R236, R125). -/
def execSbcAbsY (s : State) : Out := readKind (eaAbsIndexedRead (·.y)) sbcBody s

/-- SBC ($nn,X) (R236, R127). -/
def execSbcIndX (s : State) : Out := readKind eaIndX sbcBody s

/-- SBC ($nn),Y (R236, R128). -/
def execSbcIndY (s : State) : Out := readKind eaIndYRead sbcBody s

/-- CMP #$nn (R237, R121). -/
def execCmpImm (s : State) : Out := immediate (compareBody (·.a)) s

/-- CMP $nn (R237, R122). -/
def execCmpZp (s : State) : Out := readKind eaZp (compareBody (·.a)) s

/-- CMP $nn,X (R237, R123). -/
def execCmpZpX (s : State) : Out := readKind (eaZpIndexed (·.x)) (compareBody (·.a)) s

/-- CMP $nnnn (R237, R124). -/
def execCmpAbs (s : State) : Out := readKind eaAbs (compareBody (·.a)) s

/-- CMP $nnnn,X (R237, R125). -/
def execCmpAbsX (s : State) : Out := readKind (eaAbsIndexedRead (·.x)) (compareBody (·.a)) s

/-- CMP $nnnn,Y (R237, R125). -/
def execCmpAbsY (s : State) : Out := readKind (eaAbsIndexedRead (·.y)) (compareBody (·.a)) s

/-- CMP ($nn,X) (R237, R127). -/
def execCmpIndX (s : State) : Out := readKind eaIndX (compareBody (·.a)) s

/-- CMP ($nn),Y (R237, R128). -/
def execCmpIndY (s : State) : Out := readKind eaIndYRead (compareBody (·.a)) s

/-- CPX #$nn (R238, R121). -/
def execCpxImm (s : State) : Out := immediate (compareBody (·.x)) s

/-- CPX $nn (R238, R122). -/
def execCpxZp (s : State) : Out := readKind eaZp (compareBody (·.x)) s

/-- CPX $nnnn (R238, R124). -/
def execCpxAbs (s : State) : Out := readKind eaAbs (compareBody (·.x)) s

/-- CPY #$nn (R239, R121). -/
def execCpyImm (s : State) : Out := immediate (compareBody (·.y)) s

/-- CPY $nn (R239, R122). -/
def execCpyZp (s : State) : Out := readKind eaZp (compareBody (·.y)) s

/-- CPY $nnnn (R239, R124). -/
def execCpyAbs (s : State) : Out := readKind eaAbs (compareBody (·.y)) s

/-- INC $nn (R240, R122). -/
def execIncZp (s : State) : Out := rmwKind eaZp incByte s

/-- INC $nn,X (R240, R123). -/
def execIncZpX (s : State) : Out := rmwKind (eaZpIndexed (·.x)) incByte s

/-- INC $nnnn (R240, R124). -/
def execIncAbs (s : State) : Out := rmwKind eaAbs incByte s

/-- INC $nnnn,X (R240, R126). -/
def execIncAbsX (s : State) : Out := rmwKind (eaAbsIndexedWrite (·.x)) incByte s

/-- DEC $nn (R241, R122). -/
def execDecZp (s : State) : Out := rmwKind eaZp decByte s

/-- DEC $nn,X (R241, R123). -/
def execDecZpX (s : State) : Out := rmwKind (eaZpIndexed (·.x)) decByte s

/-- DEC $nnnn (R241, R124). -/
def execDecAbs (s : State) : Out := rmwKind eaAbs decByte s

/-- DEC $nnnn,X (R241, R126). -/
def execDecAbsX (s : State) : Out := rmwKind (eaAbsIndexedWrite (·.x)) decByte s

/-- INX (R242, R120). -/
def execInx (s : State) : Out := implied (fun s => assignX (s.cpu.x + 1) s) s

/-- INY (R243, R120). -/
def execIny (s : State) : Out := implied (fun s => assignY (s.cpu.y + 1) s) s

/-- DEX (R244, R120). -/
def execDex (s : State) : Out := implied (fun s => assignX (s.cpu.x - 1) s) s

/-- DEY (R245, R120). -/
def execDey (s : State) : Out := implied (fun s => assignY (s.cpu.y - 1) s) s

end Sys2Proof.Machine
end

