-- ==== Sys2Proof/Machine/Control.lean ====
section
/-! DEFINITION. Branches, jumps, subroutines, BRK, RTI and NOP (44_control.md R290 to R306). Each meaning runs from cycle c2, with PC at the byte
after the opcode. -/

namespace Sys2Proof.Machine

/-- BPL label (R291, R290). -/
def execBpl (s : State) : Out := branch (fun f => !f.n) s

/-- BMI label (R292, R290). -/
def execBmi (s : State) : Out := branch (fun f => f.n) s

/-- BVC label (R293, R290). -/
def execBvc (s : State) : Out := branch (fun f => !f.v) s

/-- BVS label (R294, R290). -/
def execBvs (s : State) : Out := branch (fun f => f.v) s

/-- BCC label (R295, R290). -/
def execBcc (s : State) : Out := branch (fun f => !f.c) s

/-- BCS label (R296, R290). -/
def execBcs (s : State) : Out := branch (fun f => f.c) s

/-- BNE label (R297, R290). -/
def execBne (s : State) : Out := branch (fun f => !f.z) s

/-- BEQ label (R298, R290). -/
def execBeq (s : State) : Out := branch (fun f => f.z) s

/-- JMP $nnnn: three cycles; the last byte is read at PC, which is then loaded (R300). -/
def execJmpAbs (s : State) : Out :=
  andThen (fetchByte s) fun lo s =>
  andThen (memRead s.cpu.pc s) fun hi s =>
  .next (s.setPc (word hi lo))

/-- JMP ($nnnn): the pointer's high byte stays in its page (R301). -/
def execJmpInd (s : State) : Out :=
  andThen (fetchByte s) fun lo s =>
  andThen (fetchByte s) fun hi s =>
  andThen (memRead (word hi lo) s) fun pl s =>
  andThen (memRead (word hi (lo + 1)) s) fun ph s =>
  .next (s.setPc (word ph pl))

/-- JSR $nnnn: the high operand byte is fetched after the pushes (R302). -/
def execJsr (s : State) : Out :=
  andThen (fetchByte s) fun lo s =>
  andThen (dummyReadStack s) fun _ s =>
  andThen (push (highByte s.cpu.pc) s) fun _ s =>
  andThen (push (lowByte s.cpu.pc) s) fun _ s =>
  andThen (memRead s.cpu.pc s) fun hi s =>
  .next (s.setPc (word hi lo))

/-- RTS: PC is the pulled word plus one (R303). -/
def execRts (s : State) : Out :=
  andThen (dummyReadPc s) fun _ s =>
  andThen (dummyReadStack s) fun _ s =>
  andThen (pull s) fun lo s =>
  andThen (pull s) fun hi s =>
  andThen (dummyRead (word hi lo) s) fun _ s =>
  .next (s.setPc (word hi lo + 1))

/-- BRK: the byte after the opcode is fetched and skipped (R304). -/
def execBrk (s : State) : Out :=
  andThen (fetchByte s) fun _ s => enterHandler true irqVector s

/-- RTI: no increment of PC (R305). -/
def execRti (s : State) : Out :=
  andThen (dummyReadPc s) fun _ s => returnFromHandler s

/-- NOP (R306, R120). -/
def execNop (s : State) : Out := implied id s

end Sys2Proof.Machine
end

