-- ==== Sys2Proof/Machine/LoadStore.lean ====
section
/-! DEFINITION. Loads and stores (41_load_store_transfer.md R200 to R205). Each meaning runs from cycle c2, with PC at the byte
after the opcode. -/

namespace Sys2Proof.Machine

/-- LDA #$nn (R200, R121). -/
def execLdaImm (s : State) : Out := immediate assignA s

/-- LDA $nn (R200, R122). -/
def execLdaZp (s : State) : Out := readKind eaZp assignA s

/-- LDA $nn,X (R200, R123). -/
def execLdaZpX (s : State) : Out := readKind (eaZpIndexed (·.x)) assignA s

/-- LDA $nnnn (R200, R124). -/
def execLdaAbs (s : State) : Out := readKind eaAbs assignA s

/-- LDA $nnnn,X (R200, R125). -/
def execLdaAbsX (s : State) : Out := readKind (eaAbsIndexedRead (·.x)) assignA s

/-- LDA $nnnn,Y (R200, R125). -/
def execLdaAbsY (s : State) : Out := readKind (eaAbsIndexedRead (·.y)) assignA s

/-- LDA ($nn,X) (R200, R127). -/
def execLdaIndX (s : State) : Out := readKind eaIndX assignA s

/-- LDA ($nn),Y (R200, R128). -/
def execLdaIndY (s : State) : Out := readKind eaIndYRead assignA s

/-- LDX #$nn (R201, R121). -/
def execLdxImm (s : State) : Out := immediate assignX s

/-- LDX $nn (R201, R122). -/
def execLdxZp (s : State) : Out := readKind eaZp assignX s

/-- LDX $nn,Y (R201, R123). -/
def execLdxZpY (s : State) : Out := readKind (eaZpIndexed (·.y)) assignX s

/-- LDX $nnnn (R201, R124). -/
def execLdxAbs (s : State) : Out := readKind eaAbs assignX s

/-- LDX $nnnn,Y (R201, R125). -/
def execLdxAbsY (s : State) : Out := readKind (eaAbsIndexedRead (·.y)) assignX s

/-- LDY #$nn (R202, R121). -/
def execLdyImm (s : State) : Out := immediate assignY s

/-- LDY $nn (R202, R122). -/
def execLdyZp (s : State) : Out := readKind eaZp assignY s

/-- LDY $nn,X (R202, R123). -/
def execLdyZpX (s : State) : Out := readKind (eaZpIndexed (·.x)) assignY s

/-- LDY $nnnn (R202, R124). -/
def execLdyAbs (s : State) : Out := readKind eaAbs assignY s

/-- LDY $nnnn,X (R202, R125). -/
def execLdyAbsX (s : State) : Out := readKind (eaAbsIndexedRead (·.x)) assignY s

/-- STA $nn (R203, R122). -/
def execStaZp (s : State) : Out := writeKind eaZp (·.a) s

/-- STA $nn,X (R203, R123). -/
def execStaZpX (s : State) : Out := writeKind (eaZpIndexed (·.x)) (·.a) s

/-- STA $nnnn (R203, R124). -/
def execStaAbs (s : State) : Out := writeKind eaAbs (·.a) s

/-- STA $nnnn,X (R203, R126). -/
def execStaAbsX (s : State) : Out := writeKind (eaAbsIndexedWrite (·.x)) (·.a) s

/-- STA $nnnn,Y (R203, R126). -/
def execStaAbsY (s : State) : Out := writeKind (eaAbsIndexedWrite (·.y)) (·.a) s

/-- STA ($nn,X) (R203, R127). -/
def execStaIndX (s : State) : Out := writeKind eaIndX (·.a) s

/-- STA ($nn),Y (R203, R128). -/
def execStaIndY (s : State) : Out := writeKind eaIndYWrite (·.a) s

/-- STX $nn (R204, R122). -/
def execStxZp (s : State) : Out := writeKind eaZp (·.x) s

/-- STX $nn,Y (R204, R123). -/
def execStxZpY (s : State) : Out := writeKind (eaZpIndexed (·.y)) (·.x) s

/-- STX $nnnn (R204, R124). -/
def execStxAbs (s : State) : Out := writeKind eaAbs (·.x) s

/-- STY $nn (R205, R122). -/
def execStyZp (s : State) : Out := writeKind eaZp (·.y) s

/-- STY $nn,X (R205, R123). -/
def execStyZpX (s : State) : Out := writeKind (eaZpIndexed (·.x)) (·.y) s

/-- STY $nnnn (R205, R124). -/
def execStyAbs (s : State) : Out := writeKind eaAbs (·.y) s

end Sys2Proof.Machine
end

