-- ==== Sys2Proof/Machine/Logic.lean ====
section
/-! DEFINITION. Logic and bit test (43_logic_shift.md R260 to R263). Each meaning runs from cycle c2, with PC at the byte
after the opcode. -/

namespace Sys2Proof.Machine

/-- `body(v) = assign(A, A & v)` (R260). -/
def andBody (v : Byte) (s : State) : State := assignA (s.cpu.a &&& v) s

/-- `body(v) = assign(A, A | v)` (R261). -/
def oraBody (v : Byte) (s : State) : State := assignA (s.cpu.a ||| v) s

/-- `body(v) = assign(A, A ^ v)` (R262). -/
def eorBody (v : Byte) (s : State) : State := assignA (s.cpu.a ^^^ v) s

/-- BIT's body; A is not written (R263). -/
def bitBody (m : Byte) (s : State) : State := s.setFlags (bitFlags s.cpu.flags s.cpu.a m)

/-- AND #$nn (R260, R121). -/
def execAndImm (s : State) : Out := immediate andBody s

/-- AND $nn (R260, R122). -/
def execAndZp (s : State) : Out := readKind eaZp andBody s

/-- AND $nn,X (R260, R123). -/
def execAndZpX (s : State) : Out := readKind (eaZpIndexed (·.x)) andBody s

/-- AND $nnnn (R260, R124). -/
def execAndAbs (s : State) : Out := readKind eaAbs andBody s

/-- AND $nnnn,X (R260, R125). -/
def execAndAbsX (s : State) : Out := readKind (eaAbsIndexedRead (·.x)) andBody s

/-- AND $nnnn,Y (R260, R125). -/
def execAndAbsY (s : State) : Out := readKind (eaAbsIndexedRead (·.y)) andBody s

/-- AND ($nn,X) (R260, R127). -/
def execAndIndX (s : State) : Out := readKind eaIndX andBody s

/-- AND ($nn),Y (R260, R128). -/
def execAndIndY (s : State) : Out := readKind eaIndYRead andBody s

/-- ORA #$nn (R261, R121). -/
def execOraImm (s : State) : Out := immediate oraBody s

/-- ORA $nn (R261, R122). -/
def execOraZp (s : State) : Out := readKind eaZp oraBody s

/-- ORA $nn,X (R261, R123). -/
def execOraZpX (s : State) : Out := readKind (eaZpIndexed (·.x)) oraBody s

/-- ORA $nnnn (R261, R124). -/
def execOraAbs (s : State) : Out := readKind eaAbs oraBody s

/-- ORA $nnnn,X (R261, R125). -/
def execOraAbsX (s : State) : Out := readKind (eaAbsIndexedRead (·.x)) oraBody s

/-- ORA $nnnn,Y (R261, R125). -/
def execOraAbsY (s : State) : Out := readKind (eaAbsIndexedRead (·.y)) oraBody s

/-- ORA ($nn,X) (R261, R127). -/
def execOraIndX (s : State) : Out := readKind eaIndX oraBody s

/-- ORA ($nn),Y (R261, R128). -/
def execOraIndY (s : State) : Out := readKind eaIndYRead oraBody s

/-- EOR #$nn (R262, R121). -/
def execEorImm (s : State) : Out := immediate eorBody s

/-- EOR $nn (R262, R122). -/
def execEorZp (s : State) : Out := readKind eaZp eorBody s

/-- EOR $nn,X (R262, R123). -/
def execEorZpX (s : State) : Out := readKind (eaZpIndexed (·.x)) eorBody s

/-- EOR $nnnn (R262, R124). -/
def execEorAbs (s : State) : Out := readKind eaAbs eorBody s

/-- EOR $nnnn,X (R262, R125). -/
def execEorAbsX (s : State) : Out := readKind (eaAbsIndexedRead (·.x)) eorBody s

/-- EOR $nnnn,Y (R262, R125). -/
def execEorAbsY (s : State) : Out := readKind (eaAbsIndexedRead (·.y)) eorBody s

/-- EOR ($nn,X) (R262, R127). -/
def execEorIndX (s : State) : Out := readKind eaIndX eorBody s

/-- EOR ($nn),Y (R262, R128). -/
def execEorIndY (s : State) : Out := readKind eaIndYRead eorBody s

/-- BIT $nn (R263, R122). -/
def execBitZp (s : State) : Out := readKind eaZp bitBody s

/-- BIT $nnnn (R263, R124). -/
def execBitAbs (s : State) : Out := readKind eaAbs bitBody s

end Sys2Proof.Machine
end

