-- ==== Sys2Proof/Machine/Shift.lean ====
section
/-! DEFINITION. Shifts and rotates (43_logic_shift.md R264 to R267). Each meaning runs from cycle c2, with PC at the byte
after the opcode. -/

namespace Sys2Proof.Machine

/-- ASL A (R264, R120). -/
def execAslA (s : State) : Out := implied (onAccumulator aslByte) s

/-- ASL $nn (R264, R122). -/
def execAslZp (s : State) : Out := rmwKind eaZp aslByte s

/-- ASL $nn,X (R264, R123). -/
def execAslZpX (s : State) : Out := rmwKind (eaZpIndexed (·.x)) aslByte s

/-- ASL $nnnn (R264, R124). -/
def execAslAbs (s : State) : Out := rmwKind eaAbs aslByte s

/-- ASL $nnnn,X (R264, R126). -/
def execAslAbsX (s : State) : Out := rmwKind (eaAbsIndexedWrite (·.x)) aslByte s

/-- LSR A (R265, R120). -/
def execLsrA (s : State) : Out := implied (onAccumulator lsrByte) s

/-- LSR $nn (R265, R122). -/
def execLsrZp (s : State) : Out := rmwKind eaZp lsrByte s

/-- LSR $nn,X (R265, R123). -/
def execLsrZpX (s : State) : Out := rmwKind (eaZpIndexed (·.x)) lsrByte s

/-- LSR $nnnn (R265, R124). -/
def execLsrAbs (s : State) : Out := rmwKind eaAbs lsrByte s

/-- LSR $nnnn,X (R265, R126). -/
def execLsrAbsX (s : State) : Out := rmwKind (eaAbsIndexedWrite (·.x)) lsrByte s

/-- ROL A (R266, R120). -/
def execRolA (s : State) : Out := implied (onAccumulator rolByte) s

/-- ROL $nn (R266, R122). -/
def execRolZp (s : State) : Out := rmwKind eaZp rolByte s

/-- ROL $nn,X (R266, R123). -/
def execRolZpX (s : State) : Out := rmwKind (eaZpIndexed (·.x)) rolByte s

/-- ROL $nnnn (R266, R124). -/
def execRolAbs (s : State) : Out := rmwKind eaAbs rolByte s

/-- ROL $nnnn,X (R266, R126). -/
def execRolAbsX (s : State) : Out := rmwKind (eaAbsIndexedWrite (·.x)) rolByte s

/-- ROR A (R267, R120). -/
def execRorA (s : State) : Out := implied (onAccumulator rorByte) s

/-- ROR $nn (R267, R122). -/
def execRorZp (s : State) : Out := rmwKind eaZp rorByte s

/-- ROR $nn,X (R267, R123). -/
def execRorZpX (s : State) : Out := rmwKind (eaZpIndexed (·.x)) rorByte s

/-- ROR $nnnn (R267, R124). -/
def execRorAbs (s : State) : Out := rmwKind eaAbs rorByte s

/-- ROR $nnnn,X (R267, R126). -/
def execRorAbsX (s : State) : Out := rmwKind (eaAbsIndexedWrite (·.x)) rorByte s

end Sys2Proof.Machine
end

