-- ==== Sys2Proof/Machine/Stack.lean ====
section
/-! DEFINITION. Stack and flag instructions (45_stack_flags.md R330 to R340). Each meaning runs from cycle c2, with PC at the byte
after the opcode. -/

namespace Sys2Proof.Machine

/-- Changes one flag and nothing else (45_stack_flags.md section 2). -/
def setFlag (f : Flags → Flags) (s : State) : State := s.setFlags (f s.cpu.flags)

/-- PHA: (R330). -/
def execPha (s : State) : Out :=
  andThen (dummyReadPc s) fun _ s =>
  andThen (push s.cpu.a s) fun _ s => .next s

/-- PHP: B = 1 in the pushed byte (R331). -/
def execPhp (s : State) : Out :=
  andThen (dummyReadPc s) fun _ s =>
  andThen (pushFlags true s) fun _ s => .next s

/-- PLA: (R332). -/
def execPla (s : State) : Out :=
  andThen (dummyReadPc s) fun _ s =>
  andThen (dummyReadStack s) fun _ s =>
  andThen (pull s) fun v s => .next (assignA v s)

/-- PLP: bits 5 and 4 of the pulled byte are discarded (R333). -/
def execPlp (s : State) : Out :=
  andThen (dummyReadPc s) fun _ s =>
  andThen (dummyReadStack s) fun _ s =>
  andThen (pullFlags s) fun _ s => .next s

/-- CLC (R334, R120). -/
def execClc (s : State) : Out := implied (setFlag (·.setC false)) s

/-- SEC (R335, R120). -/
def execSec (s : State) : Out := implied (setFlag (·.setC true)) s

/-- CLI (R336, R120). -/
def execCli (s : State) : Out := implied (setFlag (·.setI false)) s

/-- SEI (R337, R120). -/
def execSei (s : State) : Out := implied (setFlag (·.setI true)) s

/-- CLD (R338, R120). -/
def execCld (s : State) : Out := implied (setFlag (·.setD false)) s

/-- SED (R339, R120). -/
def execSed (s : State) : Out := implied (setFlag (·.setD true)) s

/-- CLV (R340, R120). -/
def execClv (s : State) : Out := implied (setFlag (·.setV false)) s

end Sys2Proof.Machine
end

