-- ==== Sys2Proof/Machine/Transfer.lean ====
section
/-! DEFINITION. Register transfers (41_load_store_transfer.md R206 to R211). Each meaning runs from cycle c2, with PC at the byte
after the opcode. -/

namespace Sys2Proof.Machine

/-- TAX (R206, R120). -/
def execTax (s : State) : Out := implied (fun s => assignX s.cpu.a s) s

/-- TAY (R207, R120). -/
def execTay (s : State) : Out := implied (fun s => assignY s.cpu.a s) s

/-- TXA (R208, R120). -/
def execTxa (s : State) : Out := implied (fun s => assignA s.cpu.x s) s

/-- TYA (R209, R120). -/
def execTya (s : State) : Out := implied (fun s => assignA s.cpu.y s) s

/-- TSX (R210, R120). -/
def execTsx (s : State) : Out := implied (fun s => assignX (lowByte s.cpu.sp) s) s

/-- TXS (R211, R120). -/
def execTxs (s : State) : Out := implied (fun s => s.setSp (word 0x01 s.cpu.x)) s

end Sys2Proof.Machine
end

