-- ==== Sys2Proof/Machine/Cycle.lean ====
section
/-! DEFINITION. One step from an instruction boundary (60_exceptions.md R405), and how a program is placed
where the machine fetches. -/

namespace Sys2Proof.Machine

/-- UNDEF_POLICY applied to the opcode byte `op` fetched at `a`, with PC at `a + 1` (30_encoding.md R84). -/
def undefinedOpcode (op : Byte) (a : Addr) (s : State) : Out :=
  match s.params.undefPolicy with
  | .fault => .fault (.undefinedOpcode op a s)
  | .nop => andThen (dummyReadPc s) fun _ s => .next s

/-- DISPATCH(op): runs the handler of an opcode byte fetched at `a` (60_exceptions.md R405; log 12). -/
def runOpcode (op : Byte) (a : Addr) (s : State) : Out :=
  match tableGet freshDispatch s.params.dispatch op.toNat with
  | .hostHandler => .refused (.hostHandler op)
  | .undefined => undefinedOpcode op a s
  | .table =>
    match decodeOpcode op with
    | some i => exec i s
    | none => undefinedOpcode op a s

/-- Fetches an opcode and runs it (60_exceptions.md R405, 40_pipelines.md R101). -/
def runInstruction (s : State) : Out :=
  andThen (fetchByte s) fun op s' => runOpcode op s.cpu.pc s'

/-- The step of 60_exceptions.md R405: NMI, then IRQ if I = 0, then the next instruction (R409). The lines
are read as they stand at the boundary. A taken NMI is dropped before its entry begins (R404; log 7). -/
def stepFromBoundary (s : State) : Out :=
  let s := s.clearBus
  if s.host.nmi then interruptEntry nmiVector ((s.setHost { s.host with nmi := false }).setTook .nmi)
  else if s.host.irq && !s.cpu.flags.i then interruptEntry irqVector (s.setTook .irq)
  else runInstruction (s.setTook .none)

/-! ### Placing a program -/

/-- Makes `a` read as `v` with no callback: its page mapped and watched by no bit. -/
def placeByte (a : Addr) (v : Byte) (s : State) : State :=
  let p := pageOf s a
  let s := hostEdit (.watchPage p true) s
  let s := hostEdit (.watchMask a 0x00) s
  let s := if (readCell s a).isNone then hostEdit (.mapRead p (some p)) s else s
  match readCell s a with
  | some cell => storeCell s cell v
  | none => s

/-- Bytes at consecutive addresses modulo 0x10000 (10_state.md R23). -/
def placeBytes (a : Addr) : List Byte → State → State
  | [], s => s
  | v :: vs, s => placeBytes (a + 1) vs (placeByte a v s)

/-- Places the bytes of `w` at PC so that the next step fetches and runs them: no interrupt is taken, and
the opcode byte is dispatched as opcode_table.json says (log 4). -/
def placeForFetch (s : State) (nbits w : Nat) : State :=
  let s := hostEdit (.nmi false) s
  let s := hostEdit (.irq (s.host.irq && s.cpu.flags.i)) s
  let op := w % 2 ^ nbits % 256
  let s := { s with params := { s.params with dispatch := tableSet freshDispatch s.params.dispatch op .table } }
  placeBytes s.cpu.pc (tableBytes nbits w) s

end Sys2Proof.Machine
end

