-- ==== Sys2Proof/Machine/Step.lean ====
section
/-! DEFINITION. The step, and a state whose next step runs given bytes. -/

namespace Sys2Proof.Machine

/-- One step from an instruction boundary (60_exceptions.md R405). The two inputs `irq` and `nmi` are fields
of the host state (log 7). -/
def step (s : State) : Host.Outcome State Fault Refusal := stepFromBoundary s

/-- `s` with the instruction whose bits are `w` (bits from `nbits` up zero) where the next step fetches. -/
def State.withFetchWord (s : State) (nbits w : Nat) : State := placeForFetch s nbits w

end Sys2Proof.Machine
end

