-- ==== Sys2Proof/Machine/BusSpec.lean ====
section
/-! DEFINITION. What 30_encoding.md R82 and the tables of 40_pipelines.md and 70_reset_and_hazards.md say in
closed form, written beside the pipelines and not through them: the effective address of each mode, the list
of bus accesses, and the cycle count of each opcode. The statements compare the machine with these. All are
functions of a state at cycle c2 (PC at the byte after the opcode) where every read is a raw read. -/

namespace Sys2Proof.Machine

/-- The byte a raw read of `a` gives; 0x00 where the page is not mapped (used only where it is). -/
def memAt (s : State) (a : Addr) : Byte := (peek s a).getD 0x00

/-- A raw store to `a`; nothing where the page is not mapped (used only where it is). -/
def storeAt (a : Addr) (v : Byte) (s : State) : State :=
  match writeCell s a with
  | some cell => storeCell s cell v
  | none => s

/-- `byte1` of 30_encoding.md R82. -/
def byte1 (s : State) : Byte := memAt s s.cpu.pc

/-- `byte2` of 30_encoding.md R82. -/
def byte2 (s : State) : Byte := memAt s (s.cpu.pc + 1)

/-- The word at a zero-page pointer: `MemRead((p + 1) mod 0x100) : MemRead(p)` (R82). -/
def pointerWord (s : State) (p : Byte) : Addr := word (memAt s (zext (p + 1))) (memAt s (zext p))

/-- The address before indexing, and the index, of the modes that can cross a page (R112). -/
def baseOf (m : Mode) (s : State) : Addr :=
  match m with
  | .indy => pointerWord s (byte1 s)
  | .imp | .acc | .imm | .zp | .zpx | .zpy | .abs | .absx | .absy | .indx | .ind | .rel =>
    word (byte2 s) (byte1 s)

def indexOf (m : Mode) (s : State) : Byte :=
  match m with
  | .zpx | .absx | .indx => s.cpu.x
  | .zpy | .absy | .indy => s.cpu.y
  | .imp | .acc | .imm | .zp | .abs | .ind | .rel => 0x00

/-- Operand assembly (30_encoding.md R82). For `imm` the address of the operand byte itself; the modes with
no memory operand have none, and PC stands there. -/
def eaOf (m : Mode) (s : State) : Addr :=
  match m with
  | .imm | .imp | .acc | .rel => s.cpu.pc
  | .zp => zext (byte1 s)
  | .zpx => zext (byte1 s + s.cpu.x)
  | .zpy => zext (byte1 s + s.cpu.y)
  | .abs => word (byte2 s) (byte1 s)
  | .absx => word (byte2 s) (byte1 s) + zext s.cpu.x
  | .absy => word (byte2 s) (byte1 s) + zext s.cpu.y
  | .indx => pointerWord s (byte1 s + s.cpu.x)
  | .indy => pointerWord s (byte1 s) + zext s.cpu.y
  | .ind =>
    word (memAt s (word (byte2 s) (byte1 s + 1))) (memAt s (word (byte2 s) (byte1 s)))

/-- Operand bytes of each format (30_encoding.md R80). -/
def operandLength : Format → Nat
  | .f1 => 0
  | .f2 => 1
  | .f3 => 2

/-- PC after the operand bytes (10_state.md R23). -/
def pcAfter (m : Mode) (s : State) : Addr := s.cpu.pc + BitVec.ofNat 16 (operandLength (formatOf m))

/-- An index addition that crosses a page (R112). -/
def crosses (m : Mode) (s : State) : Bool :=
  match m with
  | .absx | .absy | .indy => decide (highByte (baseOf m s + zext (indexOf m s)) ≠ highByte (baseOf m s))
  | .imp | .acc | .imm | .zp | .zpx | .zpy | .abs | .indx | .ind | .rel => false

/-- One bus read of `a`. -/
def readOf (s : State) (a : Addr) : BusAccess := .read a (memAt s a)

/-- The address of the penalty cycle: on a cross, the wrapped address in the legacy class and the last
operand byte in the extended class; without a cross, the effective address (R111). -/
def penaltyAddr (m : Mode) (s : State) : Addr :=
  if crosses m s then
    match s.cpu.cls with
    | .legacy => word (highByte (baseOf m s)) (lowByte (eaOf m s))
    | .extended => pcAfter m s - 1
  else eaOf m s

/-- The three kinds of 40_pipelines.md R114. -/
inductive AccessKind where
  | read
  | write
  | rmw
  deriving DecidableEq, Repr, Inhabited

/-- The penalty cycle: read kind only on a cross; write and rmw kinds always (R125, R126, R128). -/
def penaltyBus (k : AccessKind) (m : Mode) (s : State) : List BusAccess :=
  if k = .read && !crosses m s then [] else [readOf s (penaltyAddr m s)]

/-- The accesses from c2 to the one before the operand's (R121 to R128). -/
def addressBus (k : AccessKind) (m : Mode) (s : State) : List BusAccess :=
  match m with
  | .imp | .acc | .imm | .rel => []
  | .zp => [readOf s s.cpu.pc]
  | .zpx | .zpy => [readOf s s.cpu.pc, readOf s (zext (byte1 s))]
  | .abs => [readOf s s.cpu.pc, readOf s (s.cpu.pc + 1)]
  | .absx | .absy => [readOf s s.cpu.pc, readOf s (s.cpu.pc + 1)] ++ penaltyBus k m s
  | .indx =>
    [readOf s s.cpu.pc, readOf s (zext (byte1 s)), readOf s (zext (byte1 s + s.cpu.x)),
      readOf s (zext (byte1 s + s.cpu.x + 1))]
  | .indy =>
    [readOf s s.cpu.pc, readOf s (zext (byte1 s)), readOf s (zext (byte1 s + 1))] ++ penaltyBus k m s
  | .ind =>
    [readOf s s.cpu.pc, readOf s (s.cpu.pc + 1), readOf s (word (byte2 s) (byte1 s)),
      readOf s (word (byte2 s) (byte1 s + 1))]

/-- Read kind: the operand's read is the last access. -/
def readBus (m : Mode) (s : State) : List BusAccess := addressBus .read m s ++ [readOf s (eaOf m s)]

/-- Write kind: the store of `v` is the last access. -/
def writeBus (m : Mode) (v : Byte) (s : State) : List BusAccess :=
  addressBus .write m s ++ [.write (eaOf m s) v]

/-- Rmw kind: read, write of the old value, write of the new one (R113). -/
def rmwBus (m : Mode) (r : Byte) (s : State) : List BusAccess :=
  addressBus .rmw m s ++
    [readOf s (eaOf m s), .write (eaOf m s) (memAt s (eaOf m s)), .write (eaOf m s) r]

/-- `s` after the accesses `es`, with PC at `pc`: `cycles` counts each (10_state.md R32). -/
def afterBus (es : List BusAccess) (pc : Addr) (s : State) : State :=
  { s with
    cpu := { s.cpu with pc := pc, cycles := s.cpu.cycles + es.length }
    bus := s.bus ++ es }

/-- The target of a taken branch with `PC_next` after its operand (R82 `rel`, 44_control.md R290). -/
def branchTarget (s : State) : Addr := s.cpu.pc + 1 + sext (byte1 s)

/-- The condition each branch takes (44_control.md R291 to R298); false for the other instructions. -/
def branchTaken (i : Instr) (f : Flags) : Bool :=
  match i with
  | .bpl => f.n == false
  | .bmi => f.n == true
  | .bvc => f.v == false
  | .bvs => f.v == true
  | .bcc => f.c == false
  | .bcs => f.c == true
  | .bne => f.z == false
  | .beq => f.z == true
  | _ => false

/-- The columns of the cycle table of 70_reset_and_hazards.md R455: a fixed count, a count with `+p`, or
`2+t+p`. -/
inductive CycleEntry where
  | fixed (n : Nat)
  | plusCross (n : Nat)
  | branch
  deriving DecidableEq, Repr, Inhabited

/-- The entry of each opcode in the cycle table of 70_reset_and_hazards.md R455. -/
def cycleEntry : Instr → CycleEntry
  | .ldaImm => .fixed 2
  | .ldaZp => .fixed 3
  | .ldaZpX => .fixed 4
  | .ldaAbs => .fixed 4
  | .ldaAbsX => .plusCross 4
  | .ldaAbsY => .plusCross 4
  | .ldaIndX => .fixed 6
  | .ldaIndY => .plusCross 5
  | .ldxImm => .fixed 2
  | .ldxZp => .fixed 3
  | .ldxZpY => .fixed 4
  | .ldxAbs => .fixed 4
  | .ldxAbsY => .plusCross 4
  | .ldyImm => .fixed 2
  | .ldyZp => .fixed 3
  | .ldyZpX => .fixed 4
  | .ldyAbs => .fixed 4
  | .ldyAbsX => .plusCross 4
  | .staZp => .fixed 3
  | .staZpX => .fixed 4
  | .staAbs => .fixed 4
  | .staAbsX => .fixed 5
  | .staAbsY => .fixed 5
  | .staIndX => .fixed 6
  | .staIndY => .fixed 6
  | .stxZp => .fixed 3
  | .stxZpY => .fixed 4
  | .stxAbs => .fixed 4
  | .styZp => .fixed 3
  | .styZpX => .fixed 4
  | .styAbs => .fixed 4
  | .tax => .fixed 2
  | .tay => .fixed 2
  | .txa => .fixed 2
  | .tya => .fixed 2
  | .tsx => .fixed 2
  | .txs => .fixed 2
  | .adcImm => .fixed 2
  | .adcZp => .fixed 3
  | .adcZpX => .fixed 4
  | .adcAbs => .fixed 4
  | .adcAbsX => .plusCross 4
  | .adcAbsY => .plusCross 4
  | .adcIndX => .fixed 6
  | .adcIndY => .plusCross 5
  | .sbcImm => .fixed 2
  | .sbcZp => .fixed 3
  | .sbcZpX => .fixed 4
  | .sbcAbs => .fixed 4
  | .sbcAbsX => .plusCross 4
  | .sbcAbsY => .plusCross 4
  | .sbcIndX => .fixed 6
  | .sbcIndY => .plusCross 5
  | .cmpImm => .fixed 2
  | .cmpZp => .fixed 3
  | .cmpZpX => .fixed 4
  | .cmpAbs => .fixed 4
  | .cmpAbsX => .plusCross 4
  | .cmpAbsY => .plusCross 4
  | .cmpIndX => .fixed 6
  | .cmpIndY => .plusCross 5
  | .cpxImm => .fixed 2
  | .cpxZp => .fixed 3
  | .cpxAbs => .fixed 4
  | .cpyImm => .fixed 2
  | .cpyZp => .fixed 3
  | .cpyAbs => .fixed 4
  | .incZp => .fixed 5
  | .incZpX => .fixed 6
  | .incAbs => .fixed 6
  | .incAbsX => .fixed 7
  | .decZp => .fixed 5
  | .decZpX => .fixed 6
  | .decAbs => .fixed 6
  | .decAbsX => .fixed 7
  | .inx => .fixed 2
  | .iny => .fixed 2
  | .dex => .fixed 2
  | .dey => .fixed 2
  | .andImm => .fixed 2
  | .andZp => .fixed 3
  | .andZpX => .fixed 4
  | .andAbs => .fixed 4
  | .andAbsX => .plusCross 4
  | .andAbsY => .plusCross 4
  | .andIndX => .fixed 6
  | .andIndY => .plusCross 5
  | .oraImm => .fixed 2
  | .oraZp => .fixed 3
  | .oraZpX => .fixed 4
  | .oraAbs => .fixed 4
  | .oraAbsX => .plusCross 4
  | .oraAbsY => .plusCross 4
  | .oraIndX => .fixed 6
  | .oraIndY => .plusCross 5
  | .eorImm => .fixed 2
  | .eorZp => .fixed 3
  | .eorZpX => .fixed 4
  | .eorAbs => .fixed 4
  | .eorAbsX => .plusCross 4
  | .eorAbsY => .plusCross 4
  | .eorIndX => .fixed 6
  | .eorIndY => .plusCross 5
  | .bitZp => .fixed 3
  | .bitAbs => .fixed 4
  | .aslA => .fixed 2
  | .aslZp => .fixed 5
  | .aslZpX => .fixed 6
  | .aslAbs => .fixed 6
  | .aslAbsX => .fixed 7
  | .lsrA => .fixed 2
  | .lsrZp => .fixed 5
  | .lsrZpX => .fixed 6
  | .lsrAbs => .fixed 6
  | .lsrAbsX => .fixed 7
  | .rolA => .fixed 2
  | .rolZp => .fixed 5
  | .rolZpX => .fixed 6
  | .rolAbs => .fixed 6
  | .rolAbsX => .fixed 7
  | .rorA => .fixed 2
  | .rorZp => .fixed 5
  | .rorZpX => .fixed 6
  | .rorAbs => .fixed 6
  | .rorAbsX => .fixed 7
  | .bpl => .branch
  | .bmi => .branch
  | .bvc => .branch
  | .bvs => .branch
  | .bcc => .branch
  | .bcs => .branch
  | .bne => .branch
  | .beq => .branch
  | .jmpAbs => .fixed 3
  | .jmpInd => .fixed 5
  | .jsr => .fixed 6
  | .rts => .fixed 6
  | .brk => .fixed 7
  | .rti => .fixed 6
  | .nop => .fixed 2
  | .pha => .fixed 3
  | .php => .fixed 3
  | .pla => .fixed 4
  | .plp => .fixed 4
  | .clc => .fixed 2
  | .sec => .fixed 2
  | .cli => .fixed 2
  | .sei => .fixed 2
  | .cld => .fixed 2
  | .sed => .fixed 2
  | .clv => .fixed 2

/-- The cycles of an instruction whose c2 state is `s`: `+p` is one more when the index addition crosses a
page; a branch takes 2, 3 or 4 (R455). -/
def cyclesOf (i : Instr) (s : State) : Nat :=
  match cycleEntry i with
  | .fixed n => n
  | .plusCross n => n + (crosses (modeOf i) s).toNat
  | .branch =>
    if branchTaken i s.cpu.flags then
      (if highByte (branchTarget s) = highByte (s.cpu.pc + 1) then 3 else 4)
    else 2

/-! ### Completed instructions -/

/-- The operand byte of a read or rmw instruction. -/
def operandOf (i : Instr) (s : State) : Byte := memAt s (eaOf (modeOf i) s)

/-- After a read-kind instruction's accesses, before its body. -/
def afterRead (i : Instr) (s : State) : State :=
  afterBus (readBus (modeOf i) s) (pcAfter (modeOf i) s) s

/-- After a write-kind instruction that stores `v`. -/
def afterWrite (i : Instr) (v : Byte) (s : State) : State :=
  afterBus (writeBus (modeOf i) v s) (pcAfter (modeOf i) s) (storeAt (eaOf (modeOf i) s) v s)

/-- After an rmw instruction's accesses that store the old value and then `r`, before its flags. -/
def afterRmw (i : Instr) (r : Byte) (s : State) : State :=
  afterBus (rmwBus (modeOf i) r s) (pcAfter (modeOf i) s)
    (storeAt (eaOf (modeOf i) s) r (storeAt (eaOf (modeOf i) s) (operandOf i s) s))

/-- After the dummy read of a one-byte instruction (40_pipelines.md R120). -/
def afterImplied (s : State) : State := afterBus [readOf s s.cpu.pc] s.cpu.pc s

/-- `s` after a vectored entry that made the accesses `before`, with the return address `ret` and B = `b` in
the pushed status byte (44_control.md R304, 60_exceptions.md R408). -/
def handlerEntry (b : Bool) (vec : Addr) (before : List BusAccess) (ret : Addr) (s : State) : State :=
  let sp₁ := spDown s.cpu.sp
  let sp₂ := spDown sp₁
  let p := packP b s.cpu.flags
  let u := storeAt sp₂ p (storeAt sp₁ (lowByte ret) (storeAt s.cpu.sp (highByte ret) s))
  let lo := memAt u vec
  let hi := memAt u (vec + 1)
  ((afterBus
      (before ++
        [.write s.cpu.sp (highByte ret), .write sp₁ (lowByte ret), .write sp₂ p, .read vec lo,
          .read (vec + 1) hi])
      (word hi lo) u).setSp (spDown sp₂)).setFlags { s.cpu.flags with i := true }

/-- `s` at cycle c2 of the instruction that a step runs: the opcode has been fetched at PC
(40_pipelines.md R101). -/
def fetched (s : State) : State :=
  { s with
    cpu := { s.cpu with pc := s.cpu.pc + 1, cycles := s.cpu.cycles + 1 }
    took := .none
    bus := [readOf s s.cpu.pc] }

/-! ### Which instructions write what (10_state.md R20 to R25) -/

def ldaForms : List Instr := [.ldaImm, .ldaZp, .ldaZpX, .ldaAbs, .ldaAbsX, .ldaAbsY, .ldaIndX, .ldaIndY]
def ldxForms : List Instr := [.ldxImm, .ldxZp, .ldxZpY, .ldxAbs, .ldxAbsY]
def ldyForms : List Instr := [.ldyImm, .ldyZp, .ldyZpX, .ldyAbs, .ldyAbsX]
def staForms : List Instr := [.staZp, .staZpX, .staAbs, .staAbsX, .staAbsY, .staIndX, .staIndY]
def stxForms : List Instr := [.stxZp, .stxZpY, .stxAbs]
def styForms : List Instr := [.styZp, .styZpX, .styAbs]
def adcForms : List Instr := [.adcImm, .adcZp, .adcZpX, .adcAbs, .adcAbsX, .adcAbsY, .adcIndX, .adcIndY]
def sbcForms : List Instr := [.sbcImm, .sbcZp, .sbcZpX, .sbcAbs, .sbcAbsX, .sbcAbsY, .sbcIndX, .sbcIndY]
def cmpForms : List Instr := [.cmpImm, .cmpZp, .cmpZpX, .cmpAbs, .cmpAbsX, .cmpAbsY, .cmpIndX, .cmpIndY]
def cpxForms : List Instr := [.cpxImm, .cpxZp, .cpxAbs]
def cpyForms : List Instr := [.cpyImm, .cpyZp, .cpyAbs]
def incForms : List Instr := [.incZp, .incZpX, .incAbs, .incAbsX]
def decForms : List Instr := [.decZp, .decZpX, .decAbs, .decAbsX]
def andForms : List Instr := [.andImm, .andZp, .andZpX, .andAbs, .andAbsX, .andAbsY, .andIndX, .andIndY]
def oraForms : List Instr := [.oraImm, .oraZp, .oraZpX, .oraAbs, .oraAbsX, .oraAbsY, .oraIndX, .oraIndY]
def eorForms : List Instr := [.eorImm, .eorZp, .eorZpX, .eorAbs, .eorAbsX, .eorAbsY, .eorIndX, .eorIndY]
def bitForms : List Instr := [.bitZp, .bitAbs]
/-- The memory forms of ASL. -/
def aslForms : List Instr := [.aslZp, .aslZpX, .aslAbs, .aslAbsX]
/-- The memory forms of LSR. -/
def lsrForms : List Instr := [.lsrZp, .lsrZpX, .lsrAbs, .lsrAbsX]
/-- The memory forms of ROL. -/
def rolForms : List Instr := [.rolZp, .rolZpX, .rolAbs, .rolAbsX]
/-- The memory forms of ROR. -/
def rorForms : List Instr := [.rorZp, .rorZpX, .rorAbs, .rorAbsX]

/-- Write A: loads and transfers to A, PLA, and the instructions whose destination is A (R20). -/
def aWriters : List Instr :=
  ldaForms ++ [Instr.txa, Instr.tya, Instr.pla] ++ adcForms ++ sbcForms ++ andForms ++ oraForms ++
    eorForms ++ [Instr.aslA, Instr.lsrA, Instr.rolA, Instr.rorA]

/-- Write X (R21). -/
def xWriters : List Instr :=
  ldxForms ++ [Instr.tax, Instr.tsx, Instr.inx, Instr.dex]

/-- Write Y (R22). -/
def yWriters : List Instr :=
  ldyForms ++ [Instr.tay, Instr.iny, Instr.dey]

/-- Write SP: TXS, and every push and pull (R24). -/
def spWriters : List Instr :=
  [Instr.txs, Instr.pha, Instr.php, Instr.pla, Instr.plp, Instr.jsr, Instr.rts, Instr.brk, Instr.rti]

/-- Write N and Z (R25). -/
def nzWriters : List Instr :=
  ldaForms ++ ldxForms ++ ldyForms ++ [Instr.tax, Instr.tay, Instr.txa, Instr.tya, Instr.tsx] ++
    adcForms ++ sbcForms ++ cmpForms ++ cpxForms ++ cpyForms ++ incForms ++ decForms ++
    [Instr.inx, Instr.iny, Instr.dex, Instr.dey] ++ andForms ++ oraForms ++ eorForms ++ bitForms ++
    [Instr.aslA] ++ aslForms ++ [Instr.lsrA] ++ lsrForms ++ [Instr.rolA] ++ rolForms ++ [Instr.rorA] ++
    rorForms ++ [Instr.pla, Instr.plp, Instr.rti]

/-- Write V (R25). -/
def vWriters : List Instr :=
  adcForms ++ sbcForms ++ bitForms ++ [Instr.clv, Instr.plp, Instr.rti]

/-- Write D (R25). -/
def dWriters : List Instr :=
  [Instr.sed, Instr.cld, Instr.plp, Instr.rti]

/-- Write I (R25). -/
def iWriters : List Instr :=
  [Instr.sei, Instr.cli, Instr.plp, Instr.rti, Instr.brk]

/-- Write C (R25). -/
def cWriters : List Instr :=
  adcForms ++ sbcForms ++ cmpForms ++ cpxForms ++ cpyForms ++ [Instr.aslA] ++ aslForms ++
    [Instr.lsrA] ++ lsrForms ++ [Instr.rolA] ++ rolForms ++ [Instr.rorA] ++ rorForms ++
    [Instr.sec, Instr.clc, Instr.plp, Instr.rti]

/-- Store to memory: the write and rmw kinds (40_pipelines.md R114), the pushes, JSR and BRK. -/
def storers : List Instr :=
  staForms ++ stxForms ++ styForms ++ aslForms ++ lsrForms ++ rolForms ++ rorForms ++ incForms ++
    decForms ++ [Instr.pha, Instr.php, Instr.jsr, Instr.brk]

def staThrough : List (Instr × (State → Res Addr)) :=
  [(.staZp, eaZp), (.staZpX, eaZpIndexed (·.x)), (.staAbs, eaAbs),
    (.staAbsX, eaAbsIndexedWrite (·.x)), (.staAbsY, eaAbsIndexedWrite (·.y)), (.staIndX, eaIndX),
    (.staIndY, eaIndYWrite)]
def stxThrough : List (Instr × (State → Res Addr)) :=
  [(.stxZp, eaZp), (.stxZpY, eaZpIndexed (·.y)), (.stxAbs, eaAbs)]
def styThrough : List (Instr × (State → Res Addr)) :=
  [(.styZp, eaZp), (.styZpX, eaZpIndexed (·.x)), (.styAbs, eaAbs)]
def aslThrough : List (Instr × (State → Res Addr)) :=
  [(.aslZp, eaZp), (.aslZpX, eaZpIndexed (·.x)), (.aslAbs, eaAbs),
    (.aslAbsX, eaAbsIndexedWrite (·.x))]
def lsrThrough : List (Instr × (State → Res Addr)) :=
  [(.lsrZp, eaZp), (.lsrZpX, eaZpIndexed (·.x)), (.lsrAbs, eaAbs),
    (.lsrAbsX, eaAbsIndexedWrite (·.x))]
def rolThrough : List (Instr × (State → Res Addr)) :=
  [(.rolZp, eaZp), (.rolZpX, eaZpIndexed (·.x)), (.rolAbs, eaAbs),
    (.rolAbsX, eaAbsIndexedWrite (·.x))]
def rorThrough : List (Instr × (State → Res Addr)) :=
  [(.rorZp, eaZp), (.rorZpX, eaZpIndexed (·.x)), (.rorAbs, eaAbs),
    (.rorAbsX, eaAbsIndexedWrite (·.x))]
def incThrough : List (Instr × (State → Res Addr)) :=
  [(.incZp, eaZp), (.incZpX, eaZpIndexed (·.x)), (.incAbs, eaAbs),
    (.incAbsX, eaAbsIndexedWrite (·.x))]
def decThrough : List (Instr × (State → Res Addr)) :=
  [(.decZp, eaZp), (.decZpX, eaZpIndexed (·.x)), (.decAbs, eaAbs),
    (.decAbsX, eaAbsIndexedWrite (·.x))]

/-- The write and rmw kinds, each with the pipeline its meaning takes the stored-to address from
(40_pipelines.md R114). -/
def storesThrough : List (Instr × (State → Res Addr)) :=
  staThrough ++ stxThrough ++ styThrough ++ aslThrough ++ lsrThrough ++
    rolThrough ++ rorThrough ++ incThrough ++ decThrough

end Sys2Proof.Machine
end

