-- ==== Sys2Proof/Machine/Run.lean ====
section
/-! DEFINITION. The host loop: a step with its two inputs, and a run as a bounded sequence of steps
(60_exceptions.md R404, R410, 70_reset_and_hazards.md R457). -/

namespace Sys2Proof.Machine

/-- The inputs of a step (60_exceptions.md R404): the level of `irq`, and whether an NMI edge has arrived. -/
structure Inputs where
  irq : Bool
  nmi : Bool
  deriving DecidableEq, Repr, Inhabited

/-- The inputs sampled at this boundary. An edge that arrives while one is pending merges with it (R407). -/
def withInputs (inp : Inputs) (s : State) : State :=
  s.setHost { s.host with irq := inp.irq, nmi := s.host.nmi || inp.nmi }

/-- `Step(s, H, irq, nmi)` (R405). -/
def stepWith (inp : Inputs) (s : State) : Out := step (withInputs inp s)

/-- A run: one step for each of the host's inputs, ending at a boundary or at the first stop (R410). -/
def runWith : List Inputs → State → Out
  | [], s => .next s
  | inp :: inps, s =>
    match stepWith inp s with
    | .next s' => runWith inps s'
    | .fault r => .fault r
    | .refused r => .refused r

end Sys2Proof.Machine
end

