-- ==== Sys2Proof/Safety.lean ====
section
/-! DEFINITION. What counts as a well-formed state and a safe run, in the terms the statements use. -/

namespace Sys2Proof.Machine

/-- The well-formedness of 10_state.md R36: `SP[15:8] = 0x01` (bits 5 and 4 and the class hold by their
types), with storage and the host's tables in canonical form. -/
def State.wf (s : State) : Bool := highByte s.cpu.sp == 0x01 && s.host.wf

/-- The host's promise of 20_memory.md R50 and R51 ("fully mapped") for a run in which no watch bit is set:
every address has a watch entry, a `readMap` entry and a `writeMap` entry, and its mask holds no bit that
an access acts on. -/
structure Ready (s : State) : Prop where
  present : ∀ a, watchPresent s a = true
  readable : ∀ a, (readCell s a).isSome = true
  writable : ∀ a, (writeCell s a).isSome = true
  noIntercept : ∀ a, intercepts (maskOf s a) = false
  noBreakRead : ∀ a, breaksOnRead s (maskOf s a) = false
  noBreakWrite : ∀ a, breaksOnWrite s (maskOf s a) = false

/-- No access to any address acts on a watch bit, so no callback runs (20_memory.md R53). -/
def Unwatched (s : State) : Prop :=
  ∀ a, intercepts (maskOf s a) = false ∧ breaksOnRead s (maskOf s a) = false ∧
    breaksOnWrite s (maskOf s a) = false

/-- No interrupt is taken at this boundary (60_exceptions.md R406, R407). -/
abbrev NoEntry (s : State) : Prop := s.host.nmi = false ∧ (s.host.irq = true → s.cpu.flags.i = true)

/-- The step from `s` ends at the next boundary. -/
def StepsSafely (s : State) : Prop := ∃ t, step s = .next t

/-- A run ends at a boundary, whatever the host's inputs in the list. -/
def RunsSafely (inps : List Inputs) (s : State) : Prop := ∃ t, runWith inps s = .next t

end Sys2Proof.Machine
end

