-- ==== Sys2Proof/Certificates/Slice0/Obligations.lean ====
section
/-! DEFINITION. The statements for the provers. Names are those of spec/: `R<n>` is a numbered rule.

Statements about every state `s` with `Ready s` are about a host that keeps its promise of 20_memory.md R50
and R51 in a run with no watch bit set; statements without that hypothesis hold under any callbacks. An
instruction's statement starts at cycle c2: PC is at the byte after the opcode. -/

open Sys2Proof Sys2Proof.Machine

/-! ### Encoding -/

/-- Decoding an encoded well-formed instruction gives it back, whatever follows it. -/
def Obligations.DecodingAnEncodedInstructionGivesItBack : Prop :=
  ∀ (e : Encoded) (rest : List Byte), e.wf = true → decode (encode e ++ rest) = .ok (e, rest)

/-- Bytes that decode are the encoding of a well-formed instruction: no byte of them is dropped. -/
def Obligations.DecodedBytesAreTheEncodingOfAWellFormedInstruction : Prop :=
  ∀ (bs rest : List Byte) (e : Encoded), decode bs = .ok (e, rest) →
    e.wf = true ∧ encode e ++ rest = bs

/-- The 105 bytes of 30_encoding.md R84. -/
def undefinedBytes : List Byte :=
  [0x02, 0x03, 0x04, 0x07, 0x0B, 0x0C, 0x0F, 0x12, 0x13, 0x14, 0x17, 0x1A, 0x1B, 0x1C, 0x1F,
   0x22, 0x23, 0x27, 0x2B, 0x2F, 0x32, 0x33, 0x34, 0x37, 0x3A, 0x3B, 0x3C, 0x3F, 0x42, 0x43,
   0x44, 0x47, 0x4B, 0x4F, 0x52, 0x53, 0x54, 0x57, 0x5A, 0x5B, 0x5C, 0x5F, 0x62, 0x63, 0x64,
   0x67, 0x6B, 0x6F, 0x72, 0x73, 0x74, 0x77, 0x7A, 0x7B, 0x7C, 0x7F, 0x80, 0x82, 0x83, 0x87,
   0x89, 0x8B, 0x8F, 0x92, 0x93, 0x97, 0x9B, 0x9C, 0x9E, 0x9F, 0xA3, 0xA7, 0xAB, 0xAF, 0xB2,
   0xB3, 0xB7, 0xBB, 0xBF, 0xC2, 0xC3, 0xC7, 0xCB, 0xCF, 0xD2, 0xD3, 0xD4, 0xD7, 0xDA, 0xDB,
   0xDC, 0xDF, 0xE2, 0xE3, 0xE7, 0xEB, 0xEF, 0xF2, 0xF3, 0xF4, 0xF7, 0xFA, 0xFB, 0xFC, 0xFF]

/-- R84, whose policies are the spec's decision D2: exactly the 105 listed bytes are undefined; a step that
fetches one faults after the fetch under `fault`, and under `nop` makes a dummy read at PC and changes nothing
but PC and `cycles`. -/
def Obligations.UndefinedOpcodesFollowThePolicy : Prop :=
  (∀ op, decodeOpcode op = none ↔ op ∈ undefinedBytes) ∧
  ∀ s, Ready s → NoEntry s → memAt s s.cpu.pc ∈ undefinedBytes →
    tableGet freshDispatch s.params.dispatch (memAt s s.cpu.pc).toNat = .table →
      (s.params.undefPolicy = .fault →
        step s = .fault (.undefinedOpcode (memAt s s.cpu.pc) s.cpu.pc (fetched s))) ∧
      (s.params.undefPolicy = .nop →
        step s = .next
          { s with
            cpu := { s.cpu with pc := s.cpu.pc + 1, cycles := s.cpu.cycles + 2 }
            took := .none
            bus := [readOf s s.cpu.pc, readOf s (s.cpu.pc + 1)] })

/-- Some words, written out from the map of 30_encoding.md R83 and the operand order of R80. -/
def Obligations.SampleWordsDecodeToTheirInstructions : Prop :=
  decode [0xA9, 0x00] = .ok (⟨.ldaImm, .byte 0x00⟩, []) ∧
  decode [0x8D, 0x00, 0x02] = .ok (⟨.staAbs, .addr 0x0200⟩, []) ∧
  decode [0xAA] = .ok (⟨.tax, .none⟩, []) ∧
  decode [0x71, 0x20] = .ok (⟨.adcIndY, .byte 0x20⟩, []) ∧
  decode [0x24, 0x40] = .ok (⟨.bitZp, .byte 0x40⟩, []) ∧
  decode [0x7E, 0x34, 0x12] = .ok (⟨.rorAbsX, .addr 0x1234⟩, []) ∧
  decode [0x6C, 0xFF, 0x12, 0xEA] = .ok (⟨.jmpInd, .addr 0x12FF⟩, [0xEA]) ∧
  decode [0x90, 0x80] = .ok (⟨.bcc, .byte 0x80⟩, []) ∧
  decode [0x28] = .ok (⟨.plp, .none⟩, []) ∧
  decode [0x02] = .error (.undefinedOpcode 0x02) ∧
  decode [0x8D, 0x00] = .error .truncated

/-! ### The step -/

/-- Where no interrupt is taken and the bytes at PC decode, the step is `exec` of the instruction at the
state after the opcode fetch: PC one further, one cycle counted, the fetch reported. -/
def Obligations.StepRunsTheDecodedInstruction : Prop :=
  ∀ (s : State) (e : Encoded) (rest : List Byte), Ready s → NoEntry s →
    tableGet freshDispatch s.params.dispatch (memAt s s.cpu.pc).toNat = .table →
    decode [memAt s s.cpu.pc, memAt s (s.cpu.pc + 1), memAt s (s.cpu.pc + 2)] = .ok (e, rest) →
      step s = exec e.instr (fetched s)

/-- R405's order at a boundary, under any callbacks: NMI, then IRQ if I = 0, then the instruction whose
opcode is fetched over the bus (the spec's decisions D6, D14). A taken NMI is dropped before its entry
(log 7). -/
def Obligations.StepTakesNmiThenIrqThenTheInstruction : Prop :=
  ∀ s : State,
    (s.host.nmi = true →
      step s = interruptEntry 0xFFFA { s with host := { s.host with nmi := false }, took := .nmi, bus := [] }) ∧
    (s.host.nmi = false → s.host.irq = true → s.cpu.flags.i = false →
      step s = interruptEntry 0xFFFE { s with took := .irq, bus := [] }) ∧
    (s.host.nmi = false → (s.host.irq = false ∨ s.cpu.flags.i = true) →
      step s = andThen (memRead s.cpu.pc { s with took := .none, bus := [] }) fun op u =>
        runOpcode op s.cpu.pc (u.setPc (u.cpu.pc + 1)))

/-- Each instruction completes wherever every page is mapped and no watch bit is set, and leaves such a
machine. -/
def Obligations.EveryInstructionCompletesOnAMappedUnwatchedMachine : Prop :=
  ∀ (i : Instr) (s : State), Ready s → ∃ t, exec i s = .next t ∧ Ready t

/-- No run stops, whatever the host's inputs, where every page is mapped, no watch bit is set, every opcode
byte is dispatched by the spec and undefined ones are no-ops. -/
def Obligations.RunsNeverStopUnderTheNopPolicy : Prop :=
  ∀ (inps : List Inputs) (s : State), Ready s → s.params.undefPolicy = .nop →
    (∀ op, tableGet freshDispatch s.params.dispatch op ≠ .hostHandler) → RunsSafely inps s

/-- On a mapped unwatched machine the one way a step can stop is an undefined opcode, or a byte the host
dispatches to a handler of its own. -/
def Obligations.MappedUnwatchedStepsStopOnlyAtTheOpcode : Prop :=
  ∀ s : State, Ready s →
    (∀ f, step s = .fault f → f = .undefinedOpcode (memAt s s.cpu.pc) s.cpu.pc (fetched s) ∧
      s.params.undefPolicy = .fault ∧
      (memAt s s.cpu.pc ∈ undefinedBytes ∨
        tableGet freshDispatch s.params.dispatch (memAt s s.cpu.pc).toNat = .undefined)) ∧
    (∀ r, step s = .refused r → r = .hostHandler (memAt s s.cpu.pc) ∧
      tableGet freshDispatch s.params.dispatch (memAt s s.cpu.pc).toNat = .hostHandler)

/-! ### The memory access layer -/

/-- R55, R58, R59, R70 for a bus read, under any callbacks. `m` is the mask read before any callback; that,
the faults and the refusal are the spec's decisions D21 to D23. -/
def Obligations.BusReadFollowsTheWatchMask : Prop :=
  ∀ (a : Addr) (s : State),
    let m := maskOf s a
    let intercept := m.getLsbD 0
    let brk := m.getLsbD s.params.watchBrkR.val
    let missing := (intercept = true ∧ s.params.hasOnRead = false) ∨
      (brk = true ∧ s.params.hasOnBreakpoint = false)
    ((watchPresent s a = false ∨ readCell s a = none) → memRead a s = .fault (.unmappedPage a s)) ∧
    (watchPresent s a = true → readCell s a ≠ none → missing →
      memRead a s = .fault (.missingCallback a s)) ∧
    (watchPresent s a = true → readCell s a ≠ none → ¬missing →
      (brk = true → Config.onBreakpoint s.host s.cpu a = .reentered →
        memRead a s = .refused (.callbackReentry a)) ∧
      ∀ h₁ : HostState,
        (if brk = true then
            ∃ es, Config.onBreakpoint s.host s.cpu a = .returned () es ∧ h₁ = s.host.edits es
          else h₁ = s.host) →
        (intercept = true → Config.onRead h₁ a = .reentered →
          memRead a s = .refused (.callbackReentry a)) ∧
        (∀ v es, intercept = true → Config.onRead h₁ a = .returned v es →
          memRead a s = .next (v,
            { s with
              cpu := { s.cpu with cycles := s.cpu.cycles + 1 }
              host := h₁.edits es
              bus := s.bus ++ [.read a v] })) ∧
        (∀ v, intercept = false → peek (s.setHost h₁) a = some v →
          memRead a s = .next (v,
            { s with
              cpu := { s.cpu with cycles := s.cpu.cycles + 1 }
              host := h₁
              bus := s.bus ++ [.read a v] })))

/-- R56, R58, R59, R70 for a bus write, under any callbacks: the write callback, then the breakpoint
callback, then the store if the access is not intercepted (the spec's decisions D21 to D23). -/
def Obligations.BusWriteFollowsTheWatchMask : Prop :=
  ∀ (a : Addr) (v : Byte) (s : State),
    let m := maskOf s a
    let intercept := m.getLsbD 0
    let brk := m.getLsbD s.params.watchBrkW.val
    let missing := (intercept = true ∧ s.params.hasOnWrite = false) ∨
      (brk = true ∧ s.params.hasOnBreakpoint = false)
    ((watchPresent s a = false ∨ writeCell s a = none) → memWrite a v s = .fault (.unmappedPage a s)) ∧
    (watchPresent s a = true → writeCell s a ≠ none → missing →
      memWrite a v s = .fault (.missingCallback a s)) ∧
    (watchPresent s a = true → writeCell s a ≠ none → ¬missing →
      (intercept = true → Config.onWrite s.host a v = .reentered →
        memWrite a v s = .refused (.callbackReentry a)) ∧
      ∀ h₁ : HostState,
        (if intercept = true then ∃ es, Config.onWrite s.host a v = .returned () es ∧ h₁ = s.host.edits es
          else h₁ = s.host) →
        (brk = true → Config.onBreakpoint h₁ s.cpu a = .reentered →
          memWrite a v s = .refused (.callbackReentry a)) ∧
        ∀ h₂ : HostState,
          (if brk = true then
              ∃ es, Config.onBreakpoint h₁ s.cpu a = .returned () es ∧ h₂ = h₁.edits es
            else h₂ = h₁) →
          (intercept = true →
            memWrite a v s = .next ((),
              { s with
                cpu := { s.cpu with cycles := s.cpu.cycles + 1 }
                host := h₂
                bus := s.bus ++ [.write a v] })) ∧
          (∀ cell, intercept = false → writeCell (s.setHost h₂) a = some cell →
            memWrite a v s = .next ((),
              { s with
                cpu := { s.cpu with cycles := s.cpu.cycles + 1 }
                host := { h₂ with storage := tableSet freshByte h₂.storage cell v }
                bus := s.bus ++ [.write a v] })))

/-- R57: DebugRead gives the stored byte with no effect at all, whatever the mask; an absent entry faults. -/
def Obligations.DebugReadHasNoEffect : Prop :=
  ∀ (a : Addr) (s : State),
    (∀ v, peek s a = some v → debugRead a s = .next (v, s)) ∧
    (readCell s a = none → debugRead a s = .fault (.unmappedPage a s))

/-- After a write on a mapped unwatched machine, every address that reads from the written cell reads the
new byte, and every other address reads as before: so a write to a page whose maps differ is not seen. -/
def Obligations.AStoreIsReadBackExactlyFromItsOwnCell : Prop :=
  ∀ (a : Addr) (v : Byte) (s : State), Ready s → Memory.wf s.host.storage = true →
    ∃ t, memWrite a v s = .next ((), t) ∧
      ∀ b, memAt t b = if readCell s b = writeCell s a then v else memAt s b

/-- A callback never reaches the CPU state: a bus read that completes has changed nothing of it but
`cycles`, and neither has a bus write. -/
def Obligations.BusAccessesChangeOnlyCyclesOfTheCpu : Prop :=
  (∀ a s v t, memRead a s = .next (v, t) →
    t.cpu = { s.cpu with cycles := s.cpu.cycles + 1 } ∧ t.params = s.params ∧ t.took = s.took ∧
      t.bus = s.bus ++ [.read a v]) ∧
  (∀ a v s w t, memWrite a v s = .next (w, t) →
    t.cpu = { s.cpu with cycles := s.cpu.cycles + 1 } ∧ t.params = s.params ∧ t.took = s.took ∧
      t.bus = s.bus ++ [.write a v])

/-! ### Invariants -/

/-- R36, which the spec derives, with the canonical form of storage and tables (the model's own): every step
keeps it, under any callbacks. -/
def Obligations.EveryStepKeepsTheStateWellFormed : Prop :=
  ∀ s t : State, s.wf = true → step s = .next t → t.wf = true

/-- The state after reset, with the contents and tables that logs 1 to 3 choose, is well formed, mapped and
unwatched, and resetting it changes nothing. -/
def Obligations.ResetStateIsWellFormedAndMapped : Prop :=
  State.reset.wf = true ∧ Ready State.reset ∧ hostReset State.reset = .next State.reset

/-- A step adds to `cycles` exactly the number of bus accesses it makes, under any callbacks. -/
def Obligations.EveryStepCountsItsBusAccesses : Prop :=
  ∀ s t : State, step s = .next t → t.cpu.cycles = s.cpu.cycles + t.bus.length

/-- No step changes the class or a parameter. -/
def Obligations.NoStepChangesTheClassOrAParameter : Prop :=
  ∀ s t : State, step s = .next t → t.cpu.cls = s.cpu.cls ∧ t.params = s.params

/-- The CPU never changes a table entry: with no watch bit set a step leaves the page maps, the watch
tables, the IRQ line and the rest of the host as they were; an NMI is dropped exactly when it is taken. -/
def Obligations.UnwatchedStepsLeaveTheHostTablesAlone : Prop :=
  ∀ s t : State, Unwatched s → step s = .next t →
    t.host.readMap = s.host.readMap ∧ t.host.writeMap = s.host.writeMap ∧
      t.host.watchPages = s.host.watchPages ∧ t.host.watchMask = s.host.watchMask ∧
      t.host.irq = s.host.irq ∧ t.host.nmi = false ∧ t.host.dev = s.host.dev ∧
      (t.took = .nmi ↔ s.host.nmi = true)

/-- R450, whose values are the spec's decision D16: from any state, a fault's among them, reset sets them and
leaves the host, the class and the parameters; an unmapped vector page faults (which address first, log 15). -/
def Obligations.ResetSetsTheStatedValues : Prop :=
  ∀ s : State,
    (∀ lo hi, peek s 0xFFFC = some lo → peek s 0xFFFD = some hi →
      hostReset s = .next
        { s with
          cpu :=
            { a := s.params.resetA, x := s.params.resetX, y := s.params.resetY, pc := word hi lo
              sp := 0x01FD
              flags :=
                { n := s.params.resetN, v := s.params.resetV, d := false, i := true
                  z := s.params.resetZ, c := s.params.resetC }
              cycles := 0, cls := s.cpu.cls }
          took := .none
          bus := [] }) ∧
    (peek s 0xFFFC = none ∨ peek s 0xFFFD = none →
      ∃ a u, hostReset s = .fault (.unmappedPage a u) ∧ (a = 0xFFFC ∨ a = 0xFFFD))

/-! ### Loads, stores and transfers -/

/-- R200 to R202: the register takes the operand byte, N and Z describe it, after the mode's accesses (R111,
R121 to R125, R127, R128). Which dummy reads those are is the spec's decisions D7, D9 and D10. -/
def Obligations.LoadsPutTheOperandInTheRegister : Prop :=
  ([0xA9, 0xA5, 0xB5, 0xAD, 0xBD, 0xB9, 0xA1, 0xB1] : List Byte).map decodeOpcode = ldaForms.map some ∧
  ([0xA2, 0xA6, 0xB6, 0xAE, 0xBE] : List Byte).map decodeOpcode = ldxForms.map some ∧
  ([0xA0, 0xA4, 0xB4, 0xAC, 0xBC] : List Byte).map decodeOpcode = ldyForms.map some ∧
  ∀ s, Ready s →
    (∀ i ∈ ldaForms, exec i s = .next (((afterRead i s).setA (operandOf i s)).setFlags
      { s.cpu.flags with n := (operandOf i s).getLsbD 7, z := operandOf i s == 0 })) ∧
    (∀ i ∈ ldxForms, exec i s = .next (((afterRead i s).setX (operandOf i s)).setFlags
      { s.cpu.flags with n := (operandOf i s).getLsbD 7, z := operandOf i s == 0 })) ∧
    (∀ i ∈ ldyForms, exec i s = .next (((afterRead i s).setY (operandOf i s)).setFlags
      { s.cpu.flags with n := (operandOf i s).getLsbD 7, z := operandOf i s == 0 }))

/-- R203 to R205: the register is stored at the effective address after the mode's accesses, the penalty
cycle of the indexed modes among them (R111, R122 to R124, R126 to R128); no register or flag changes. Which
dummy reads those are is the spec's decisions D7, D9 and D10. A store to an intercepted address is outside
`Ready` and is stated by BusWriteFollowsTheWatchMask. -/
def Obligations.StoresWriteTheRegisterAtTheEffectiveAddress : Prop :=
  ([0x85, 0x95, 0x8D, 0x9D, 0x99, 0x81, 0x91] : List Byte).map decodeOpcode = staForms.map some ∧
  ([0x86, 0x96, 0x8E] : List Byte).map decodeOpcode = stxForms.map some ∧
  ([0x84, 0x94, 0x8C] : List Byte).map decodeOpcode = styForms.map some ∧
  ∀ s, Ready s →
    (∀ i ∈ staForms, exec i s = .next (afterWrite i s.cpu.a s)) ∧
    (∀ i ∈ stxForms, exec i s = .next (afterWrite i s.cpu.x s)) ∧
    (∀ i ∈ styForms, exec i s = .next (afterWrite i s.cpu.y s))

/-- R206 to R209: the destination takes the source, through `assign`. -/
def Obligations.TransfersCopyTheRegister : Prop :=
  ([0xAA, 0xA8, 0x8A, 0x98] : List Byte).map decodeOpcode =
    [some Instr.tax, some Instr.tay, some Instr.txa, some Instr.tya] ∧
  ∀ s, Ready s →
    let nz := fun v : Byte => { s.cpu.flags with n := v.getLsbD 7, z := v == 0 }
    exec .tax s = .next (((afterImplied s).setX s.cpu.a).setFlags (nz s.cpu.a)) ∧
    exec .tay s = .next (((afterImplied s).setY s.cpu.a).setFlags (nz s.cpu.a)) ∧
    exec .txa s = .next (((afterImplied s).setA s.cpu.x).setFlags (nz s.cpu.x)) ∧
    exec .tya s = .next (((afterImplied s).setA s.cpu.y).setFlags (nz s.cpu.y))

/-! ### Arithmetic -/

/-- R230, R231, R235: ADC in binary and in decimal mode (the spec's decisions D4 on C and D5 on digits), after
the mode's accesses, whose dummy reads are its decisions D7, D9 and D10. -/
def Obligations.AdcAddsWithCarryInBothModes : Prop :=
  ∀ s, Ready s → ∀ i ∈ adcForms,
    let a := s.cpu.a
    let v := operandOf i s
    let c := s.cpu.flags.c.toNat
    let sum := a.toNat + v.toNat + c
    let b : Byte := BitVec.ofNat 8 sum
    let lo := a.toNat % 16 + v.toNat % 16 + c
    let hi := a.toNat / 16 + v.toNat / 16 + (if lo > 9 then 1 else 0)
    let digit := fun d : Nat => (d + (if d > 9 then 6 else 0)) % 16
    exec i s = .next (((afterRead i s).setA
        (if s.cpu.flags.d then BitVec.ofNat 8 (digit hi * 16 + digit lo) else b)).setFlags
      { s.cpu.flags with
        n := b.getLsbD 7
        z := b == 0
        v := ((a ^^^ b) &&& ~~~(a ^^^ v) &&& 0x80) != 0
        c := if s.cpu.flags.d ∧ s.params.adcDecCarry = .decimal then decide (hi > 9)
          else decide (sum ≥ 256) })

/-- R232, R233, R236: SBC in binary and in decimal mode (the spec's decision D5); the flags are those of the
binary path in both. The dummy reads of the mode's accesses are its decisions D7, D9 and D10. -/
def Obligations.SbcSubtractsWithBorrowInBothModes : Prop :=
  ∀ s, Ready s → ∀ i ∈ sbcForms,
    let a := s.cpu.a
    let v := operandOf i s
    let borrow : Int := if s.cpu.flags.c then 0 else 1
    let diff : Int := (a.toNat : Int) - (v.toNat : Int) - borrow
    let b : Byte := BitVec.ofInt 8 diff
    let lo : Int := ((a.toNat % 16 : Nat) : Int) - ((v.toNat % 16 : Nat) : Int) - borrow
    let hi : Int := ((a.toNat / 16 : Nat) : Int) - ((v.toNat / 16 : Nat) : Int) - (if lo < 0 then 1 else 0)
    let digit := fun d : Int => (d - (if d < 0 then 6 else 0)) % 16
    exec i s = .next (((afterRead i s).setA
        (if s.cpu.flags.d then BitVec.ofInt 8 (digit hi * 16 + digit lo) else b)).setFlags
      { s.cpu.flags with
        n := b.getLsbD 7
        z := b == 0
        v := ((a ^^^ b) &&& (a ^^^ v) &&& 0x80) != 0
        c := decide (diff ≥ 0) })

/-- The overflow rules of R230 and R232 are signed overflow, and C is unsigned carry and not-borrow. -/
def Obligations.OverflowIsSignedOverflowOfTheBinaryPath : Prop :=
  ∀ (dc : AdcDecCarry) (f : Flags) (a v : Byte),
    ((addWithCarry dc f a v).2.v = true ↔
      (a.toInt + v.toInt + (f.c.toNat : Int) < -128 ∨ 127 < a.toInt + v.toInt + (f.c.toNat : Int))) ∧
    ((subtractWithBorrow f a v).2.v = true ↔
      (a.toInt - v.toInt - ((!f.c).toNat : Int) < -128 ∨ 127 < a.toInt - v.toInt - ((!f.c).toNat : Int))) ∧
    ((subtractWithBorrow f a v).2.c = true ↔ v.toNat + (!f.c).toNat ≤ a.toNat)

/-- On valid BCD operands decimal ADC is two-digit decimal addition with its carry (under the default
ADC_DEC_CARRY), and decimal SBC two-digit decimal subtraction with C the not-borrow. -/
def Obligations.DecimalModeIsDecimalArithmeticOnBcdDigits : Prop :=
  ∀ (f : Flags) (a v : Byte), f.d = true →
    a.toNat % 16 ≤ 9 → a.toNat / 16 ≤ 9 → v.toNat % 16 ≤ 9 → v.toNat / 16 ≤ 9 →
      let dec := fun b : Byte => b.toNat / 16 * 10 + b.toNat % 16
      let sum := dec a + dec v + f.c.toNat
      let take := dec v + (!f.c).toNat
      dec (addWithCarry .decimal f a v).1 = sum % 100 ∧
      (addWithCarry .decimal f a v).1.toNat % 16 ≤ 9 ∧ (addWithCarry .decimal f a v).1.toNat / 16 ≤ 9 ∧
      (addWithCarry .decimal f a v).2.c = decide (sum ≥ 100) ∧
      dec (subtractWithBorrow f a v).1 = (dec a + 100 - take) % 100 ∧
      (subtractWithBorrow f a v).1.toNat % 16 ≤ 9 ∧ (subtractWithBorrow f a v).1.toNat / 16 ≤ 9 ∧
      (subtractWithBorrow f a v).2.c = decide (take ≤ dec a)

/-- R234, R237 to R239: Z, C and N from the comparison, and no register written, after the mode's accesses
(R111, R121 to R125, R127, R128), whose dummy reads are the spec's decisions D7, D9 and D10. -/
def Obligations.ComparesSetOnlyNZAndC : Prop :=
  ([0xC9, 0xC5, 0xD5, 0xCD, 0xDD, 0xD9, 0xC1, 0xD1] : List Byte).map decodeOpcode = cmpForms.map some ∧
  ([0xE0, 0xE4, 0xEC] : List Byte).map decodeOpcode = cpxForms.map some ∧
  ([0xC0, 0xC4, 0xCC] : List Byte).map decodeOpcode = cpyForms.map some ∧
  ∀ s, Ready s →
    let cmp := fun (l r : Byte) =>
      { s.cpu.flags with z := decide (l = r), c := decide (r.toNat ≤ l.toNat), n := (l - r).getLsbD 7 }
    (∀ i ∈ cmpForms, exec i s = .next ((afterRead i s).setFlags (cmp s.cpu.a (operandOf i s)))) ∧
    (∀ i ∈ cpxForms, exec i s = .next ((afterRead i s).setFlags (cmp s.cpu.x (operandOf i s)))) ∧
    (∀ i ∈ cpyForms, exec i s = .next ((afterRead i s).setFlags (cmp s.cpu.y (operandOf i s))))

/-- R240 to R245: memory and register increments and decrements; only N and Z change of the flags. The memory
forms read, store the old value and store the new one (R113) after the mode's accesses (R111, R122 to R124,
R126). The store of the old value and the dummy reads are the spec's decisions D7 to D10. -/
def Obligations.IncrementsAndDecrementsWrapAndSetNZ : Prop :=
  ([0xE6, 0xF6, 0xEE, 0xFE] : List Byte).map decodeOpcode = incForms.map some ∧
  ([0xC6, 0xD6, 0xCE, 0xDE] : List Byte).map decodeOpcode = decForms.map some ∧
  ([0xE8, 0xC8, 0xCA, 0x88] : List Byte).map decodeOpcode =
    [some Instr.inx, some Instr.iny, some Instr.dex, some Instr.dey] ∧
  ∀ s, Ready s →
    let nz := fun v : Byte => { s.cpu.flags with n := v.getLsbD 7, z := v == 0 }
    let up := fun v : Byte => (BitVec.ofNat 8 ((v.toNat + 1) % 256) : Byte)
    let down := fun v : Byte => (BitVec.ofNat 8 ((v.toNat + 255) % 256) : Byte)
    (∀ i ∈ incForms, exec i s = .next ((afterRmw i (up (operandOf i s)) s).setFlags (nz (up (operandOf i s))))) ∧
    (∀ i ∈ decForms,
      exec i s = .next ((afterRmw i (down (operandOf i s)) s).setFlags (nz (down (operandOf i s))))) ∧
    exec .inx s = .next (((afterImplied s).setX (up s.cpu.x)).setFlags (nz (up s.cpu.x))) ∧
    exec .iny s = .next (((afterImplied s).setY (up s.cpu.y)).setFlags (nz (up s.cpu.y))) ∧
    exec .dex s = .next (((afterImplied s).setX (down s.cpu.x)).setFlags (nz (down s.cpu.x))) ∧
    exec .dey s = .next (((afterImplied s).setY (down s.cpu.y)).setFlags (nz (down s.cpu.y)))

/-! ### Logic, shifts and rotates -/

/-- R260 to R262: A takes the and, the or, the exclusive or of itself and the operand, after the mode's accesses
(R111, R121 to R125, R127, R128), whose dummy reads are the spec's decisions D7, D9 and D10. -/
def Obligations.LogicInstructionsCombineWithA : Prop :=
  ([0x29, 0x25, 0x35, 0x2D, 0x3D, 0x39, 0x21, 0x31] : List Byte).map decodeOpcode = andForms.map some ∧
  ([0x09, 0x05, 0x15, 0x0D, 0x1D, 0x19, 0x01, 0x11] : List Byte).map decodeOpcode = oraForms.map some ∧
  ([0x49, 0x45, 0x55, 0x4D, 0x5D, 0x59, 0x41, 0x51] : List Byte).map decodeOpcode = eorForms.map some ∧
  ∀ s, Ready s →
    let nz := fun v : Byte => { s.cpu.flags with n := v.getLsbD 7, z := v == 0 }
    (∀ i ∈ andForms, exec i s = .next (((afterRead i s).setA (s.cpu.a &&& operandOf i s)).setFlags
      (nz (s.cpu.a &&& operandOf i s)))) ∧
    (∀ i ∈ oraForms, exec i s = .next (((afterRead i s).setA (s.cpu.a ||| operandOf i s)).setFlags
      (nz (s.cpu.a ||| operandOf i s)))) ∧
    (∀ i ∈ eorForms, exec i s = .next (((afterRead i s).setA (s.cpu.a ^^^ operandOf i s)).setFlags
      (nz (s.cpu.a ^^^ operandOf i s))))

/-- R263: N and V from memory, Z from `A & m`; A is not written. -/
def Obligations.BitTestsMemoryAgainstA : Prop :=
  ([0x24, 0x2C] : List Byte).map decodeOpcode = bitForms.map some ∧
  ∀ s, Ready s → ∀ i ∈ bitForms,
    exec i s = .next ((afterRead i s).setFlags
      { s.cpu.flags with
        n := (operandOf i s).getLsbD 7
        v := (operandOf i s).getLsbD 6
        z := s.cpu.a &&& operandOf i s == 0 })

/-- R264 to R267, accumulator and memory forms (R120, R113), the results as numbers. The memory forms' store of
the old value and the dummy reads are the spec's decisions D7 to D10. -/
def Obligations.ShiftsAndRotatesMoveBitsThroughCarry : Prop :=
  ([0x0A, 0x06, 0x16, 0x0E, 0x1E] : List Byte).map decodeOpcode = (Instr.aslA :: aslForms).map some ∧
  ([0x4A, 0x46, 0x56, 0x4E, 0x5E] : List Byte).map decodeOpcode = (Instr.lsrA :: lsrForms).map some ∧
  ([0x2A, 0x26, 0x36, 0x2E, 0x3E] : List Byte).map decodeOpcode = (Instr.rolA :: rolForms).map some ∧
  ([0x6A, 0x66, 0x76, 0x6E, 0x7E] : List Byte).map decodeOpcode = (Instr.rorA :: rorForms).map some ∧
  ∀ s, Ready s →
    let cin := s.cpu.flags.c.toNat
    let asl := fun v : Byte => (BitVec.ofNat 8 (v.toNat * 2 % 256) : Byte)
    let lsr := fun v : Byte => (BitVec.ofNat 8 (v.toNat / 2) : Byte)
    let rol := fun v : Byte => (BitVec.ofNat 8 ((v.toNat * 2 + cin) % 256) : Byte)
    let ror := fun v : Byte => (BitVec.ofNat 8 (v.toNat / 2 + 128 * cin) : Byte)
    let out := fun (r : Byte) (c : Bool) => { s.cpu.flags with n := r.getLsbD 7, z := r == 0, c := c }
    (∀ i ∈ aslForms, exec i s = .next ((afterRmw i (asl (operandOf i s)) s).setFlags
      (out (asl (operandOf i s)) ((operandOf i s).getLsbD 7)))) ∧
    (∀ i ∈ lsrForms, exec i s = .next ((afterRmw i (lsr (operandOf i s)) s).setFlags
      (out (lsr (operandOf i s)) ((operandOf i s).getLsbD 0)))) ∧
    (∀ i ∈ rolForms, exec i s = .next ((afterRmw i (rol (operandOf i s)) s).setFlags
      (out (rol (operandOf i s)) ((operandOf i s).getLsbD 7)))) ∧
    (∀ i ∈ rorForms, exec i s = .next ((afterRmw i (ror (operandOf i s)) s).setFlags
      (out (ror (operandOf i s)) ((operandOf i s).getLsbD 0)))) ∧
    exec .aslA s = .next (((afterImplied s).setA (asl s.cpu.a)).setFlags
      (out (asl s.cpu.a) (s.cpu.a.getLsbD 7))) ∧
    exec .lsrA s = .next (((afterImplied s).setA (lsr s.cpu.a)).setFlags
      (out (lsr s.cpu.a) (s.cpu.a.getLsbD 0))) ∧
    exec .rolA s = .next (((afterImplied s).setA (rol s.cpu.a)).setFlags
      (out (rol s.cpu.a) (s.cpu.a.getLsbD 7))) ∧
    exec .rorA s = .next (((afterImplied s).setA (ror s.cpu.a)).setFlags
      (out (ror s.cpu.a) (s.cpu.a.getLsbD 0)))

/-! ### Control -/

/-- R290 to R298: 2 cycles not taken, 3 taken, 4 taken across a page with a dummy read at the stale address.
The read of the third cycle is the spec's decision D12. -/
def Obligations.BranchesFollowTheirFlag : Prop :=
  ∀ s, Ready s → ∀ i ∈ [Instr.bpl, .bmi, .bvc, .bvs, .bcc, .bcs, .bne, .beq],
    let next := s.cpu.pc + 1
    let target := next + (byte1 s).signExtend 16
    let taken :=
      match i with
      | .bpl => s.cpu.flags.n == false
      | .bmi => s.cpu.flags.n == true
      | .bvc => s.cpu.flags.v == false
      | .bvs => s.cpu.flags.v == true
      | .bcc => s.cpu.flags.c == false
      | .bcs => s.cpu.flags.c == true
      | .bne => s.cpu.flags.z == false
      | _ => s.cpu.flags.z == true
    exec i s = .next
      (if taken then
        (if highByte target = highByte next then
          afterBus [readOf s s.cpu.pc, readOf s next] target s
        else
          afterBus [readOf s s.cpu.pc, readOf s next, readOf s (word (highByte next) (lowByte target))]
            target s)
      else afterBus [readOf s s.cpu.pc] next s)

/-- R299 to R301: JMP absolute, and JMP indirect with the pointer's high byte kept in its page (the spec's
decision D11). -/
def Obligations.JumpsLoadPc : Prop :=
  ∀ s, Ready s →
    exec .jmpAbs s = .next
      (afterBus [readOf s s.cpu.pc, readOf s (s.cpu.pc + 1)] (word (byte2 s) (byte1 s)) s) ∧
    (let lo := byte1 s
     let hi := byte2 s
     exec .jmpInd s = .next
      (afterBus [readOf s s.cpu.pc, readOf s (s.cpu.pc + 1), readOf s (word hi lo), readOf s (word hi (lo + 1))]
        (word (memAt s (word hi (lo + 1))) (memAt s (word hi lo))) s))

/-- R302: JSR pushes the address of its last byte, high byte first, and fetches its high operand byte after
the pushes, so that it may read a byte it has just pushed. -/
def Obligations.JsrPushesItsLastByteAddressBeforeItsLastFetch : Prop :=
  decodeOpcode 0x20 = some .jsr ∧
  ∀ s, Ready s →
    let last := s.cpu.pc + 1
    let sp₁ := word 0x01 (lowByte s.cpu.sp - 1)
    let sp₂ := word 0x01 (lowByte sp₁ - 1)
    let u := storeAt sp₁ (lowByte last) (storeAt s.cpu.sp (highByte last) s)
    exec .jsr s = .next
      ((afterBus
        [readOf s s.cpu.pc, readOf s s.cpu.sp, .write s.cpu.sp (highByte last), .write sp₁ (lowByte last),
          readOf u last]
        (word (memAt u last) (byte1 s)) u).setSp sp₂)

/-- R303: RTS pulls PC low then high and adds one. -/
def Obligations.RtsPullsPcAndAddsOne : Prop :=
  decodeOpcode 0x60 = some .rts ∧
  ∀ s, Ready s →
    let sp₁ := word 0x01 (lowByte s.cpu.sp + 1)
    let sp₂ := word 0x01 (lowByte sp₁ + 1)
    let pulled := word (memAt s sp₂) (memAt s sp₁)
    exec .rts s = .next
      ((afterBus [readOf s s.cpu.pc, readOf s s.cpu.sp, readOf s sp₁, readOf s sp₂, readOf s pulled]
        (pulled + 1) s).setSp sp₂)

/-- An RTS run with the stack as JSR left it returns to the byte after the JSR, with SP restored, where the
two stack bytes are read from the cells they are written to. `p` is where the RTS stands. -/
def Obligations.RtsReturnsPastTheJsr : Prop :=
  ∀ (s : State) (p : Addr), Ready s → s.wf = true →
    let sp₁ := spDown s.cpu.sp
    readCell s s.cpu.sp = writeCell s s.cpu.sp → readCell s sp₁ = writeCell s sp₁ →
    readCell s s.cpu.sp ≠ readCell s sp₁ →
      ∃ t u, exec .jsr s = .next t ∧ exec .rts (t.setPc p) = .next u ∧
        u.cpu.pc = s.cpu.pc + 2 ∧ u.cpu.sp = s.cpu.sp

/-- R304: BRK skips a byte, pushes PC and the status byte with B = 1, sets I and goes to the vector at 0xFFFE;
N, V, D, Z and C stay. B and the order are the spec's decisions D13 and D15. -/
def Obligations.BrkTakesTheVectoredEntry : Prop :=
  ∀ s, Ready s →
    let ret := s.cpu.pc + 1
    let sp₁ := word 0x01 (lowByte s.cpu.sp - 1)
    let sp₂ := word 0x01 (lowByte sp₁ - 1)
    let p := packP true s.cpu.flags
    let u := storeAt sp₂ p (storeAt sp₁ (lowByte ret) (storeAt s.cpu.sp (highByte ret) s))
    exec .brk s = .next
      (((afterBus
        [readOf s s.cpu.pc, .write s.cpu.sp (highByte ret), .write sp₁ (lowByte ret), .write sp₂ p,
          readOf u 0xFFFE, readOf u 0xFFFF]
        (word (memAt u 0xFFFF) (memAt u 0xFFFE)) u).setSp (word 0x01 (lowByte sp₂ - 1))).setFlags
          { s.cpu.flags with i := true })

/-- R305: RTI pulls the status byte, then PC low and high, with no increment. -/
def Obligations.RtiPullsTheFlagsAndPc : Prop :=
  decodeOpcode 0x40 = some .rti ∧
  ∀ s, Ready s →
    let sp₁ := word 0x01 (lowByte s.cpu.sp + 1)
    let sp₂ := word 0x01 (lowByte sp₁ + 1)
    let sp₃ := word 0x01 (lowByte sp₂ + 1)
    let p := memAt s sp₁
    exec .rti s = .next
      (((afterBus [readOf s s.cpu.pc, readOf s s.cpu.sp, readOf s sp₁, readOf s sp₂, readOf s sp₃]
        (word (memAt s sp₃) (memAt s sp₂)) s).setSp sp₃).setFlags
          { n := p.getLsbD 7, v := p.getLsbD 6, d := p.getLsbD 3, i := p.getLsbD 2
            z := p.getLsbD 1, c := p.getLsbD 0 })

/-- RTI undoes BRK: run with the stack as BRK left it, it returns to BRK + 2 with the flags and SP of
before, where the three stack bytes are read from the cells they are written to. `p` is where RTI stands. -/
def Obligations.RtiReturnsToTwoPastTheBrk : Prop :=
  ∀ (s : State) (p : Addr), Ready s → s.wf = true →
    let sp₁ := spDown s.cpu.sp
    let sp₂ := spDown sp₁
    readCell s s.cpu.sp = writeCell s s.cpu.sp → readCell s sp₁ = writeCell s sp₁ →
    readCell s sp₂ = writeCell s sp₂ → readCell s s.cpu.sp ≠ readCell s sp₁ →
    readCell s s.cpu.sp ≠ readCell s sp₂ → readCell s sp₁ ≠ readCell s sp₂ →
      ∃ t u, exec .brk s = .next t ∧ exec .rti (t.setPc p) = .next u ∧
        u.cpu.pc = s.cpu.pc + 1 ∧ u.cpu.sp = s.cpu.sp ∧ u.cpu.flags = s.cpu.flags

/-- R306: NOP makes its dummy read and changes nothing but `cycles`. -/
def Obligations.NopOnlyTakesACycle : Prop :=
  decodeOpcode 0xEA = some .nop ∧
  ∀ s, Ready s → exec .nop s = .next
    { s with
      cpu := { s.cpu with cycles := s.cpu.cycles + 1 }
      bus := s.bus ++ [.read s.cpu.pc (memAt s s.cpu.pc)] }

/-! ### Stack and flags -/

/-- R330, R332: PHA pushes A, and PLA pulls A through `assign`. -/
def Obligations.PhaAndPlaMoveAThroughTheStack : Prop :=
  decodeOpcode 0x48 = some .pha ∧ decodeOpcode 0x68 = some .pla ∧
  ∀ s, Ready s →
    let sp₁ := word 0x01 (lowByte s.cpu.sp + 1)
    let v := memAt s sp₁
    exec .pha s = .next
      ((afterBus [readOf s s.cpu.pc, .write s.cpu.sp s.cpu.a] s.cpu.pc (storeAt s.cpu.sp s.cpu.a s)).setSp
        (word 0x01 (lowByte s.cpu.sp - 1))) ∧
    exec .pla s = .next
      ((((afterBus [readOf s s.cpu.pc, readOf s s.cpu.sp, readOf s sp₁] s.cpu.pc s).setSp sp₁).setA v).setFlags
        { s.cpu.flags with n := v.getLsbD 7, z := v == 0 })

/-- PHP pushes the status byte with bits 5 and 4 set (the spec's decision D13), and PLP pulls the six flags
and ignores those bits. -/
def Obligations.PhpAndPlpMoveTheFlagsThroughTheStack : Prop :=
  ∀ s, Ready s →
    let sp₁ := word 0x01 (lowByte s.cpu.sp + 1)
    let v := memAt s sp₁
    let p := packP true s.cpu.flags
    p &&& 0x30 = 0x30 ∧
    exec .php s = .next
      ((afterBus [readOf s s.cpu.pc, .write s.cpu.sp p] s.cpu.pc (storeAt s.cpu.sp p s)).setSp
        (word 0x01 (lowByte s.cpu.sp - 1))) ∧
    exec .plp s = .next
      (((afterBus [readOf s s.cpu.pc, readOf s s.cpu.sp, readOf s sp₁] s.cpu.pc s).setSp sp₁).setFlags
        { n := v.getLsbD 7, v := v.getLsbD 6, d := v.getLsbD 3, i := v.getLsbD 2
          z := v.getLsbD 1, c := v.getLsbD 0 })

/-- R334 to R340: each changes its one flag, after the dummy read at PC (R120, the spec's decision D7). -/
def Obligations.FlagInstructionsChangeOneFlag : Prop :=
  ([0x18, 0x38, 0x58, 0x78, 0xD8, 0xF8, 0xB8] : List Byte).map decodeOpcode =
    [some Instr.clc, some Instr.sec, some Instr.cli, some Instr.sei, some Instr.cld, some Instr.sed,
      some Instr.clv] ∧
  ∀ s, Ready s →
    let f := s.cpu.flags
    let after := fun g : Flags => Host.Outcome.next ((afterImplied s).setFlags g)
    exec .clc s = after { f with c := false } ∧ exec .sec s = after { f with c := true } ∧
    exec .cli s = after { f with i := false } ∧ exec .sei s = after { f with i := true } ∧
    exec .cld s = after { f with d := false } ∧ exec .sed s = after { f with d := true } ∧
    exec .clv s = after { f with v := false }

/-- SP stays in page 1: a push writes at SP and then decrements it, a pull increments it and then reads at it,
both wrapping (that order is the spec's general knowledge), TXS puts X in its low byte, and TSX copies its low
byte (the spec's decision D24). -/
def Obligations.TheStackPointerMovesInsidePage1 : Prop :=
  ∀ s, Ready s →
    (∀ v, push v s = .next ((),
      ((storeAt s.cpu.sp v s).tick (.write s.cpu.sp v)).setSp
        (0x0100 ||| (BitVec.ofNat 16 ((s.cpu.sp.toNat % 256 + 255) % 256))))) ∧
    (let sp₁ : Addr := 0x0100 ||| (BitVec.ofNat 16 ((s.cpu.sp.toNat % 256 + 1) % 256))
     pull s = .next (memAt s sp₁, (s.setSp sp₁).tick (.read sp₁ (memAt s sp₁)))) ∧
    exec .txs s = .next ((afterImplied s).setSp (0x0100 ||| s.cpu.x.setWidth 16)) ∧
    exec .tsx s = .next (((afterImplied s).setX (s.cpu.sp.setWidth 8)).setFlags
      { s.cpu.flags with n := s.cpu.sp.getLsbD 7, z := decide (s.cpu.sp.toNat % 256 = 0) })

/-- The status byte: layout, constant bit 5, B as given, and unpacking gives the flags back. -/
def Obligations.StatusByteHoldsTheFlagsAndB : Prop :=
  ∀ (b : Bool) (f : Flags),
    unpackP (packP b f) = f ∧
    (packP b f).getLsbD 7 = f.n ∧ (packP b f).getLsbD 6 = f.v ∧ (packP b f).getLsbD 5 = true ∧
    (packP b f).getLsbD 4 = b ∧ (packP b f).getLsbD 3 = f.d ∧ (packP b f).getLsbD 2 = f.i ∧
    (packP b f).getLsbD 1 = f.z ∧ (packP b f).getLsbD 0 = f.c

/-- R28: `assign` stores the value, sets N and Z from it, and changes nothing else. -/
def Obligations.AssignStoresTheValueAndSetsNZ : Prop :=
  ∀ (v : Byte) (s : State),
    let nz := { s.cpu.flags with n := v.getLsbD 7, z := decide (v = 0) }
    assignA v s = { s with cpu := { s.cpu with a := v, flags := nz } } ∧
    assignX v s = { s with cpu := { s.cpu with x := v, flags := nz } } ∧
    assignY v s = { s with cpu := { s.cpu with y := v, flags := nz } }

/-! ### Interrupts -/

/-- R407, R408, which are the spec's decisions D13 to D15: a pending NMI is entered whatever I is. -/
def Obligations.NmiIsEnteredWhateverIIs : Prop :=
  ∀ s, Ready s → s.host.nmi = true →
    step s = .next (handlerEntry false 0xFFFA [readOf s s.cpu.pc, readOf s s.cpu.pc] s.cpu.pc
      { s with host := { s.host with nmi := false }, took := .nmi, bus := [] })

/-- R406, R408, which are the spec's decisions D13 to D15: an IRQ is entered when I = 0 and no NMI is pending;
the line is left as it is. -/
def Obligations.IrqIsEnteredWhenIIsClear : Prop :=
  ∀ s, Ready s → s.host.nmi = false → s.host.irq = true → s.cpu.flags.i = false →
    ∃ t, step s = .next t ∧ t.host.irq = true ∧
      t = handlerEntry false 0xFFFE [readOf s s.cpu.pc, readOf s s.cpu.pc] s.cpu.pc
        { s with took := .irq, bus := [] }

/-- R409: with NMI and IRQ both requested NMI is entered; IRQ is then masked by I = 1 and stays requested,
so the next step runs an instruction (the spec's decision D14). -/
def Obligations.NmiGoesBeforeIrqWhichStaysPending : Prop :=
  ∀ s, Ready s → s.host.nmi = true → s.host.irq = true →
    ∃ t, step s = .next t ∧ t.took = .nmi ∧ t.host.nmi = false ∧ t.host.irq = true ∧
      t.cpu.flags.i = true ∧ ∀ u, step t = .next u → u.took = .none

/-- A change of I takes effect at the very next boundary: an asserted IRQ is entered right after CLI (the
spec's decision D27). -/
def Obligations.AnAssertedIrqIsEnteredRightAfterCli : Prop :=
  ∀ s, Ready s → s.host.nmi = false → s.host.irq = true → s.cpu.flags.i = true →
    memAt s s.cpu.pc = 0x58 → tableGet freshDispatch s.params.dispatch 0x58 = .table →
      ∃ t u, step s = .next t ∧ t.took = .none ∧ t.cpu.pc = s.cpu.pc + 1 ∧ t.cpu.flags.i = false ∧
        step t = .next u ∧ u.took = .irq ∧ u.cpu.flags.i = true

/-- RTI undoes an interrupt entry: it returns to the instruction that would have run next, with the flags
and SP of before. `p` is where RTI stands. -/
def Obligations.RtiReturnsToTheInterruptedInstruction : Prop :=
  ∀ (s : State) (vec p : Addr), Ready s → s.wf = true →
    let sp₁ := spDown s.cpu.sp
    let sp₂ := spDown sp₁
    readCell s s.cpu.sp = writeCell s s.cpu.sp → readCell s sp₁ = writeCell s sp₁ →
    readCell s sp₂ = writeCell s sp₂ → readCell s s.cpu.sp ≠ readCell s sp₁ →
    readCell s s.cpu.sp ≠ readCell s sp₂ → readCell s sp₁ ≠ readCell s sp₂ →
      ∃ t u, interruptEntry vec s = .next t ∧ exec .rti (t.setPc p) = .next u ∧
        u.cpu.pc = s.cpu.pc ∧ u.cpu.sp = s.cpu.sp ∧ u.cpu.flags = s.cpu.flags

/-! ### Timing and class -/

/-- R455, which the spec derives: each opcode takes the cycles of the table, an interrupt entry 7, an
undefined opcode 2 under `nop` and 1 before the fault under `fault`, and reset 0. -/
def Obligations.StepsTakeTheCyclesOfTheTable : Prop :=
  (∀ s i, Ready s → NoEntry s →
    tableGet freshDispatch s.params.dispatch (memAt s s.cpu.pc).toNat = .table →
    decodeOpcode (memAt s s.cpu.pc) = some i →
      ∃ t, step s = .next t ∧ t.cpu.cycles = s.cpu.cycles + cyclesOf i (fetched s)) ∧
  (∀ s, Ready s → ¬NoEntry s → ∃ t, step s = .next t ∧ t.cpu.cycles = s.cpu.cycles + 7) ∧
  (∀ s, Ready s → NoEntry s →
    tableGet freshDispatch s.params.dispatch (memAt s s.cpu.pc).toNat = .table →
    decodeOpcode (memAt s s.cpu.pc) = none →
      (s.params.undefPolicy = .nop → ∃ t, step s = .next t ∧ t.cpu.cycles = s.cpu.cycles + 2) ∧
      (s.params.undefPolicy = .fault →
        ∃ f, step s = .fault f ∧ f.state.cpu.cycles = s.cpu.cycles + 1)) ∧
  (∀ s t, hostReset s = .next t → t.cpu.cycles = 0)

/-- R111: the target of the indexed dummy read, by class on a page cross; without a cross it is the spec's
decision D9. -/
def Obligations.IndexedDummyReadTargetFollowsTheClass : Prop :=
  ∀ (base : Addr) (idx : Byte) (s : State),
    let wrap := word (highByte base) (BitVec.ofNat 8 ((base.toNat % 256 + idx.toNat) % 256))
    ((base.toNat % 256 + idx.toNat > 0xFF) → s.cpu.cls = .legacy →
      indexedDummyRead base idx s = dummyRead wrap s) ∧
    ((base.toNat % 256 + idx.toNat > 0xFF) → s.cpu.cls = .extended →
      indexedDummyRead base idx s = dummyRead (s.cpu.pc - 1) s) ∧
    (¬(base.toNat % 256 + idx.toNat > 0xFF) →
      wrap = base + idx.setWidth 16 ∧ indexedDummyRead base idx s = dummyRead wrap s)

/-- R112, the indexed case: the low-byte sum carries exactly when the indexed address has another high
byte, the top of memory included. -/
def Obligations.IndexingCrossesAPageWhenTheLowByteCarries : Prop :=
  ∀ (base : Addr) (idx : Byte),
    crossed base idx = true ↔ highByte (base + zext idx) ≠ highByte base

/-- R3, R33, R111: the class selects only the target of the indexed dummy read. On a mapped unwatched machine
the two classes end every instruction in the same state, class and bus report apart; the two reports are the
same access for access, but for the penalty cycle of an index addition that crosses a page. That cycle (c4 of
`absx` and `absy`, c5 of `indy`) reads the wrapped address in the legacy class and the last operand byte,
`PC - 1`, in the extended class. That the classes agree on the penalty cycle without a cross, and in all else,
is the spec's decisions D9 and D3. -/
def Obligations.TheClassOnlyMovesTheIndexedDummyRead : Prop :=
  ∀ (i : Instr) (s : State), Ready s → s.cpu.cls = .legacy →
    ∃ t bus', exec i s = .next t ∧
      exec i { s with cpu := { s.cpu with cls := .extended } } =
        .next { t with cpu := { t.cpu with cls := .extended }, bus := bus' } ∧
      if crosses (modeOf i) s then
        ∃ before after, before.length = (if modeOf i = .indy then 3 else 2) ∧
          t.bus = s.bus ++ before ++
            readOf s (word (highByte (baseOf (modeOf i) s)) (lowByte (eaOf (modeOf i) s))) :: after ∧
          bus' = s.bus ++ before ++ readOf s (pcAfter (modeOf i) s - 1) :: after
      else bus' = t.bus

/-! ### Frames -/

/-- Under any callbacks, an instruction that completes has changed no register and no flag but those that
10_state.md R20 to R25 say it writes, and neither the class nor the parameters. -/
def Obligations.InstructionsWriteOnlyTheirOwnRegistersAndFlags : Prop :=
  ∀ (i : Instr) (s t : State), exec i s = .next t →
    (i ∉ aWriters → t.cpu.a = s.cpu.a) ∧ (i ∉ xWriters → t.cpu.x = s.cpu.x) ∧
    (i ∉ yWriters → t.cpu.y = s.cpu.y) ∧ (i ∉ spWriters → t.cpu.sp = s.cpu.sp) ∧
    (i ∉ nzWriters → t.cpu.flags.n = s.cpu.flags.n ∧ t.cpu.flags.z = s.cpu.flags.z) ∧
    (i ∉ vWriters → t.cpu.flags.v = s.cpu.flags.v) ∧ (i ∉ dWriters → t.cpu.flags.d = s.cpu.flags.d) ∧
    (i ∉ iWriters → t.cpu.flags.i = s.cpu.flags.i) ∧ (i ∉ cWriters → t.cpu.flags.c = s.cpu.flags.c) ∧
    t.cpu.cls = s.cpu.cls ∧ t.params = s.params ∧ t.took = s.took

/-- With no watch bit set, an instruction that does not store leaves all of storage, and all host state, as
it was: every byte reads as before. -/
def Obligations.InstructionsThatDoNotStoreLeaveMemory : Prop :=
  ∀ (i : Instr) (s t : State), Unwatched s → i ∉ storers → exec i s = .next t →
    t.host = s.host ∧ ∀ a, peek t a = peek s a

/-- With no watch bit set, a write or rmw instruction changes the one cell that its effective address is
written to, and every address that is not read from that cell reads as before. -/
def Obligations.StoringInstructionsChangeOnlyTheEffectiveAddress : Prop :=
  ∀ p ∈ storesThrough, ∀ (s t : State), Unwatched s → exec p.1 s = .next t →
    ∀ (a : Addr) (u : State), p.2 s = .next (a, u) →
      (∀ cell, writeCell s a ≠ some cell → cellByte t cell = cellByte s cell) ∧
      (∀ b, readCell s b ≠ writeCell s a → peek t b = peek s b)

/-- With no watch bit set, PHA and PHP change only the cell SP names, JSR that one and the next below, and
BRK that one and the next two. -/
def Obligations.PushingInstructionsChangeOnlyTheStackBytes : Prop :=
  ∀ (s t : State), Unwatched s →
    let sp₁ := spDown s.cpu.sp
    let sp₂ := spDown sp₁
    ((exec .pha s = .next t ∨ exec .php s = .next t) →
      (∀ cell, writeCell s s.cpu.sp ≠ some cell → cellByte t cell = cellByte s cell) ∧
      (∀ b, readCell s b ≠ writeCell s s.cpu.sp → peek t b = peek s b)) ∧
    (exec .jsr s = .next t →
      (∀ cell, writeCell s s.cpu.sp ≠ some cell → writeCell s sp₁ ≠ some cell →
        cellByte t cell = cellByte s cell) ∧
      (∀ b, readCell s b ≠ writeCell s s.cpu.sp → readCell s b ≠ writeCell s sp₁ →
        peek t b = peek s b)) ∧
    (exec .brk s = .next t →
      (∀ cell, writeCell s s.cpu.sp ≠ some cell → writeCell s sp₁ ≠ some cell →
        writeCell s sp₂ ≠ some cell → cellByte t cell = cellByte s cell) ∧
      (∀ b, readCell s b ≠ writeCell s s.cpu.sp → readCell s b ≠ writeCell s sp₁ →
        readCell s b ≠ writeCell s sp₂ → peek t b = peek s b))
end

