-- ==== Sys2Proof/Laws/Table.lean ====
section
/-! SUPPORT. The laws of sparse tables: read after write, writes leave other keys alone, and the canonical
form is kept and determines the table. -/

namespace Sys2Proof.Machine

@[simp] theorem tableGet_nil {β : Type} (d : Nat → β) (k : Nat) : tableGet d [] k = d k := rfl

variable {β : Type} [DecidableEq β] {d : Nat → β}

/-- A write leaves every other key as it was, whatever the table. -/
theorem tableGet_set_other (t : Table β) {k k' : Nat} (v : β) (h : k' ≠ k) :
    tableGet d (tableSet d t k v) k' = tableGet d t k' := by
  induction t with
  | nil =>
    simp only [tableSet]
    split <;> simp [tableGet, h]
  | cons e t ih =>
    obtain ⟨k₁, v₁⟩ := e
    simp only [tableSet]
    split
    · split <;> simp [tableGet, h]
    · split
      · next hk => subst hk; split <;> simp [tableGet, h]
      · simp [tableGet, ih]

theorem tableWfFrom_mono {t : Table β} {lo lo' : Nat} (h : lo' ≤ lo) (ht : tableWfFrom d lo t = true) :
    tableWfFrom d lo' t = true := by
  cases t with
  | nil => rfl
  | cons e t =>
    simp only [tableWfFrom, Bool.and_eq_true, decide_eq_true_eq] at ht ⊢
    exact ⟨⟨by omega, ht.1.2⟩, ht.2⟩

/-- Below its lowest key a canonical table reads as unlisted. -/
theorem tableGet_below {t : Table β} {lo k : Nat} (h : k < lo) (ht : tableWfFrom d lo t = true) :
    tableGet d t k = d k := by
  induction t generalizing lo with
  | nil => rfl
  | cons e t ih =>
    obtain ⟨k₁, v₁⟩ := e
    simp only [tableWfFrom, Bool.and_eq_true, decide_eq_true_eq] at ht
    rw [tableGet, if_neg (by omega), ih (by omega) ht.2]

/-- Read after write at the same key. -/
theorem tableGet_set_same_from {t : Table β} {lo : Nat} (ht : tableWfFrom d lo t = true) (k : Nat) (v : β) :
    tableGet d (tableSet d t k v) k = v := by
  induction t generalizing lo with
  | nil =>
    simp only [tableSet]
    split
    · next h => simp [h]
    · simp [tableGet]
  | cons e t ih =>
    obtain ⟨k₁, v₁⟩ := e
    simp only [tableWfFrom, Bool.and_eq_true, decide_eq_true_eq] at ht
    simp only [tableSet]
    split
    · next hlt =>
      split
      · next h => rw [tableGet, if_neg (by omega), tableGet_below (by omega) ht.2, h]
      · simp [tableGet]
    · split
      · next hk =>
        split
        · next h => rw [tableGet_below (by omega) ht.2, h]
        · simp [tableGet]
      · next hk => rw [tableGet, if_neg hk, ih ht.2]

theorem tableGet_set_same {t : Table β} (ht : tableWf d t = true) (k : Nat) (v : β) :
    tableGet d (tableSet d t k v) k = v := tableGet_set_same_from ht k v

theorem tableSet_wfFrom {t : Table β} {lo k : Nat} (v : β) (hk : lo ≤ k) (ht : tableWfFrom d lo t = true) :
    tableWfFrom d lo (tableSet d t k v) = true := by
  induction t generalizing lo with
  | nil =>
    simp only [tableSet]
    split
    · rfl
    · next h => simp [tableWfFrom, hk, h]
  | cons e t ih =>
    obtain ⟨k₁, v₁⟩ := e
    have ht' := ht
    simp only [tableWfFrom, Bool.and_eq_true, decide_eq_true_eq] at ht
    simp only [tableSet]
    split
    · next hlt =>
      split
      · exact ht'
      · next h =>
        simp only [tableWfFrom, Bool.and_eq_true, decide_eq_true_eq]
        exact ⟨⟨hk, h⟩, ⟨by omega, ht.1.2⟩, ht.2⟩
    · split
      · next hk₁ =>
        split
        · exact tableWfFrom_mono (by omega) ht.2
        · next h =>
          simp only [tableWfFrom, Bool.and_eq_true, decide_eq_true_eq]
          exact ⟨⟨hk, h⟩, hk₁ ▸ ht.2⟩
      · next hne =>
        simp only [tableWfFrom, Bool.and_eq_true, decide_eq_true_eq]
        exact ⟨⟨ht.1.1, ht.1.2⟩, ih (by omega) ht.2⟩

/-- Every write keeps the canonical form. -/
theorem tableSet_wf {t : Table β} (k : Nat) (v : β) (ht : tableWf d t = true) :
    tableWf d (tableSet d t k v) = true := tableSet_wfFrom v (Nat.zero_le k) ht

/-- The canonical form: two canonical tables that read alike everywhere are the same data. -/
theorem table_ext_from {t t' : Table β} {lo : Nat} (ht : tableWfFrom d lo t = true)
    (ht' : tableWfFrom d lo t' = true) (h : ∀ k, tableGet d t k = tableGet d t' k) : t = t' := by
  induction t generalizing t' lo with
  | nil =>
    cases t' with
    | nil => rfl
    | cons e' r' =>
      obtain ⟨k', v'⟩ := e'
      simp only [tableWfFrom, Bool.and_eq_true, decide_eq_true_eq] at ht'
      have := h k'
      simp only [tableGet, if_true] at this
      exact absurd this.symm ht'.1.2
  | cons e r ih =>
    obtain ⟨k, v⟩ := e
    simp only [tableWfFrom, Bool.and_eq_true, decide_eq_true_eq] at ht
    cases t' with
    | nil =>
      have := h k
      simp only [tableGet, if_true] at this
      exact absurd this ht.1.2
    | cons e' r' =>
      obtain ⟨k', v'⟩ := e'
      simp only [tableWfFrom, Bool.and_eq_true, decide_eq_true_eq] at ht'
      have key : k = k' := by
        rcases Nat.lt_trichotomy k k' with hlt | heq | hgt
        · have := h k
          rw [tableGet, if_pos rfl, tableGet, if_neg (by omega), tableGet_below (by omega) ht'.2] at this
          exact absurd this ht.1.2
        · exact heq
        · have := h k'
          rw [tableGet, if_neg (by omega), tableGet_below (by omega) ht.2, tableGet, if_pos rfl] at this
          exact absurd this.symm ht'.1.2
      subst key
      have hv : v = v' := by have := h k; simpa only [tableGet, if_true] using this
      have hr : r = r' := by
        refine ih ht.2 ht'.2 fun j => ?_
        by_cases hj : j = k
        · rw [hj, tableGet_below (Nat.lt_succ_self k) ht.2, tableGet_below (Nat.lt_succ_self k) ht'.2]
        · have := h j
          rwa [tableGet, if_neg hj, tableGet, if_neg hj] at this
      rw [hv, hr]

theorem table_ext {t t' : Table β} (ht : tableWf d t = true) (ht' : tableWf d t' = true)
    (h : ∀ k, tableGet d t k = tableGet d t' k) : t = t' := table_ext_from ht ht' h

end Sys2Proof.Machine
end

