-- ==== Sys2Proof/Laws/HostState.lean ====
section
/-! SUPPORT. Every change of host state keeps the canonical form of storage and of the host's tables. -/

namespace Sys2Proof.Machine

theorem HostState.wf_iff (h : HostState) : h.wf = true ↔
    Memory.wf h.storage = true ∧ tableWf freshBlock h.readMap = true ∧
      tableWf freshBlock h.writeMap = true ∧ tableWf freshWatchPage h.watchPages = true ∧
      tableWf freshMask h.watchMask = true := by
  simp [HostState.wf, and_assoc]

theorem Memory.set_wf {m : Memory} (h : Memory.wf m = true) (k : Nat) (v : Byte) :
    Memory.wf (tableSet freshByte m k v) = true := tableSet_wf k v h

theorem HostState.edit_wf {h : HostState} (e : HostEdit) (hw : h.wf = true) : (h.edit e).wf = true := by
  rw [HostState.wf_iff] at hw ⊢
  obtain ⟨h1, h2, h3, h4, h5⟩ := hw
  cases e with
  | storeCell k v => exact ⟨Memory.set_wf h1 k v, h2, h3, h4, h5⟩
  | mapRead p b => exact ⟨h1, tableSet_wf p b h2, h3, h4, h5⟩
  | mapWrite p b => exact ⟨h1, h2, tableSet_wf p b h3, h4, h5⟩
  | watchPage p b => exact ⟨h1, h2, h3, tableSet_wf p b h4, h5⟩
  | watchMask a m => exact ⟨h1, h2, h3, h4, tableSet_wf a.toNat m h5⟩
  | irq b => exact ⟨h1, h2, h3, h4, h5⟩
  | nmi b => exact ⟨h1, h2, h3, h4, h5⟩
  | dev n => exact ⟨h1, h2, h3, h4, h5⟩

theorem HostState.edits_wf (es : List HostEdit) {h : HostState} (hw : h.wf = true) :
    (h.edits es).wf = true := by
  induction es generalizing h with
  | nil => exact hw
  | cons e es ih => exact ih (edit_wf e hw)

end Sys2Proof.Machine
end

