-- ==== Sys2Proof/Laws/State.lean ====
section
/-! SUPPORT. One lemma per field per update of the state, each true by unfolding. -/

namespace Sys2Proof.Machine

@[simp] theorem State.setA_a (s : State) (v : Byte) : (s.setA v).cpu.a = v := rfl
@[simp] theorem State.setA_x (s : State) (v : Byte) : (s.setA v).cpu.x = s.cpu.x := rfl
@[simp] theorem State.setA_y (s : State) (v : Byte) : (s.setA v).cpu.y = s.cpu.y := rfl
@[simp] theorem State.setA_pc (s : State) (v : Byte) : (s.setA v).cpu.pc = s.cpu.pc := rfl
@[simp] theorem State.setA_sp (s : State) (v : Byte) : (s.setA v).cpu.sp = s.cpu.sp := rfl
@[simp] theorem State.setA_flags (s : State) (v : Byte) : (s.setA v).cpu.flags = s.cpu.flags := rfl
@[simp] theorem State.setA_cycles (s : State) (v : Byte) : (s.setA v).cpu.cycles = s.cpu.cycles := rfl
@[simp] theorem State.setA_cls (s : State) (v : Byte) : (s.setA v).cpu.cls = s.cpu.cls := rfl
@[simp] theorem State.setA_host (s : State) (v : Byte) : (s.setA v).host = s.host := rfl
@[simp] theorem State.setA_params (s : State) (v : Byte) : (s.setA v).params = s.params := rfl
@[simp] theorem State.setA_took (s : State) (v : Byte) : (s.setA v).took = s.took := rfl
@[simp] theorem State.setA_bus (s : State) (v : Byte) : (s.setA v).bus = s.bus := rfl

@[simp] theorem State.setX_a (s : State) (v : Byte) : (s.setX v).cpu.a = s.cpu.a := rfl
@[simp] theorem State.setX_x (s : State) (v : Byte) : (s.setX v).cpu.x = v := rfl
@[simp] theorem State.setX_y (s : State) (v : Byte) : (s.setX v).cpu.y = s.cpu.y := rfl
@[simp] theorem State.setX_pc (s : State) (v : Byte) : (s.setX v).cpu.pc = s.cpu.pc := rfl
@[simp] theorem State.setX_sp (s : State) (v : Byte) : (s.setX v).cpu.sp = s.cpu.sp := rfl
@[simp] theorem State.setX_flags (s : State) (v : Byte) : (s.setX v).cpu.flags = s.cpu.flags := rfl
@[simp] theorem State.setX_cycles (s : State) (v : Byte) : (s.setX v).cpu.cycles = s.cpu.cycles := rfl
@[simp] theorem State.setX_cls (s : State) (v : Byte) : (s.setX v).cpu.cls = s.cpu.cls := rfl
@[simp] theorem State.setX_host (s : State) (v : Byte) : (s.setX v).host = s.host := rfl
@[simp] theorem State.setX_params (s : State) (v : Byte) : (s.setX v).params = s.params := rfl
@[simp] theorem State.setX_took (s : State) (v : Byte) : (s.setX v).took = s.took := rfl
@[simp] theorem State.setX_bus (s : State) (v : Byte) : (s.setX v).bus = s.bus := rfl

@[simp] theorem State.setY_a (s : State) (v : Byte) : (s.setY v).cpu.a = s.cpu.a := rfl
@[simp] theorem State.setY_x (s : State) (v : Byte) : (s.setY v).cpu.x = s.cpu.x := rfl
@[simp] theorem State.setY_y (s : State) (v : Byte) : (s.setY v).cpu.y = v := rfl
@[simp] theorem State.setY_pc (s : State) (v : Byte) : (s.setY v).cpu.pc = s.cpu.pc := rfl
@[simp] theorem State.setY_sp (s : State) (v : Byte) : (s.setY v).cpu.sp = s.cpu.sp := rfl
@[simp] theorem State.setY_flags (s : State) (v : Byte) : (s.setY v).cpu.flags = s.cpu.flags := rfl
@[simp] theorem State.setY_cycles (s : State) (v : Byte) : (s.setY v).cpu.cycles = s.cpu.cycles := rfl
@[simp] theorem State.setY_cls (s : State) (v : Byte) : (s.setY v).cpu.cls = s.cpu.cls := rfl
@[simp] theorem State.setY_host (s : State) (v : Byte) : (s.setY v).host = s.host := rfl
@[simp] theorem State.setY_params (s : State) (v : Byte) : (s.setY v).params = s.params := rfl
@[simp] theorem State.setY_took (s : State) (v : Byte) : (s.setY v).took = s.took := rfl
@[simp] theorem State.setY_bus (s : State) (v : Byte) : (s.setY v).bus = s.bus := rfl

@[simp] theorem State.setPc_a (s : State) (v : Addr) : (s.setPc v).cpu.a = s.cpu.a := rfl
@[simp] theorem State.setPc_x (s : State) (v : Addr) : (s.setPc v).cpu.x = s.cpu.x := rfl
@[simp] theorem State.setPc_y (s : State) (v : Addr) : (s.setPc v).cpu.y = s.cpu.y := rfl
@[simp] theorem State.setPc_pc (s : State) (v : Addr) : (s.setPc v).cpu.pc = v := rfl
@[simp] theorem State.setPc_sp (s : State) (v : Addr) : (s.setPc v).cpu.sp = s.cpu.sp := rfl
@[simp] theorem State.setPc_flags (s : State) (v : Addr) : (s.setPc v).cpu.flags = s.cpu.flags := rfl
@[simp] theorem State.setPc_cycles (s : State) (v : Addr) : (s.setPc v).cpu.cycles = s.cpu.cycles := rfl
@[simp] theorem State.setPc_cls (s : State) (v : Addr) : (s.setPc v).cpu.cls = s.cpu.cls := rfl
@[simp] theorem State.setPc_host (s : State) (v : Addr) : (s.setPc v).host = s.host := rfl
@[simp] theorem State.setPc_params (s : State) (v : Addr) : (s.setPc v).params = s.params := rfl
@[simp] theorem State.setPc_took (s : State) (v : Addr) : (s.setPc v).took = s.took := rfl
@[simp] theorem State.setPc_bus (s : State) (v : Addr) : (s.setPc v).bus = s.bus := rfl

@[simp] theorem State.setSp_a (s : State) (v : Addr) : (s.setSp v).cpu.a = s.cpu.a := rfl
@[simp] theorem State.setSp_x (s : State) (v : Addr) : (s.setSp v).cpu.x = s.cpu.x := rfl
@[simp] theorem State.setSp_y (s : State) (v : Addr) : (s.setSp v).cpu.y = s.cpu.y := rfl
@[simp] theorem State.setSp_pc (s : State) (v : Addr) : (s.setSp v).cpu.pc = s.cpu.pc := rfl
@[simp] theorem State.setSp_sp (s : State) (v : Addr) : (s.setSp v).cpu.sp = v := rfl
@[simp] theorem State.setSp_flags (s : State) (v : Addr) : (s.setSp v).cpu.flags = s.cpu.flags := rfl
@[simp] theorem State.setSp_cycles (s : State) (v : Addr) : (s.setSp v).cpu.cycles = s.cpu.cycles := rfl
@[simp] theorem State.setSp_cls (s : State) (v : Addr) : (s.setSp v).cpu.cls = s.cpu.cls := rfl
@[simp] theorem State.setSp_host (s : State) (v : Addr) : (s.setSp v).host = s.host := rfl
@[simp] theorem State.setSp_params (s : State) (v : Addr) : (s.setSp v).params = s.params := rfl
@[simp] theorem State.setSp_took (s : State) (v : Addr) : (s.setSp v).took = s.took := rfl
@[simp] theorem State.setSp_bus (s : State) (v : Addr) : (s.setSp v).bus = s.bus := rfl

@[simp] theorem State.setFlags_a (s : State) (f : Flags) : (s.setFlags f).cpu.a = s.cpu.a := rfl
@[simp] theorem State.setFlags_x (s : State) (f : Flags) : (s.setFlags f).cpu.x = s.cpu.x := rfl
@[simp] theorem State.setFlags_y (s : State) (f : Flags) : (s.setFlags f).cpu.y = s.cpu.y := rfl
@[simp] theorem State.setFlags_pc (s : State) (f : Flags) : (s.setFlags f).cpu.pc = s.cpu.pc := rfl
@[simp] theorem State.setFlags_sp (s : State) (f : Flags) : (s.setFlags f).cpu.sp = s.cpu.sp := rfl
@[simp] theorem State.setFlags_flags (s : State) (f : Flags) : (s.setFlags f).cpu.flags = f := rfl
@[simp] theorem State.setFlags_cycles (s : State) (f : Flags) : (s.setFlags f).cpu.cycles = s.cpu.cycles := rfl
@[simp] theorem State.setFlags_cls (s : State) (f : Flags) : (s.setFlags f).cpu.cls = s.cpu.cls := rfl
@[simp] theorem State.setFlags_host (s : State) (f : Flags) : (s.setFlags f).host = s.host := rfl
@[simp] theorem State.setFlags_params (s : State) (f : Flags) : (s.setFlags f).params = s.params := rfl
@[simp] theorem State.setFlags_took (s : State) (f : Flags) : (s.setFlags f).took = s.took := rfl
@[simp] theorem State.setFlags_bus (s : State) (f : Flags) : (s.setFlags f).bus = s.bus := rfl

@[simp] theorem State.setHost_a (s : State) (h : HostState) : (s.setHost h).cpu.a = s.cpu.a := rfl
@[simp] theorem State.setHost_x (s : State) (h : HostState) : (s.setHost h).cpu.x = s.cpu.x := rfl
@[simp] theorem State.setHost_y (s : State) (h : HostState) : (s.setHost h).cpu.y = s.cpu.y := rfl
@[simp] theorem State.setHost_pc (s : State) (h : HostState) : (s.setHost h).cpu.pc = s.cpu.pc := rfl
@[simp] theorem State.setHost_sp (s : State) (h : HostState) : (s.setHost h).cpu.sp = s.cpu.sp := rfl
@[simp] theorem State.setHost_flags (s : State) (h : HostState) : (s.setHost h).cpu.flags = s.cpu.flags := rfl
@[simp] theorem State.setHost_cycles (s : State) (h : HostState) : (s.setHost h).cpu.cycles = s.cpu.cycles := rfl
@[simp] theorem State.setHost_cls (s : State) (h : HostState) : (s.setHost h).cpu.cls = s.cpu.cls := rfl
@[simp] theorem State.setHost_host (s : State) (h : HostState) : (s.setHost h).host = h := rfl
@[simp] theorem State.setHost_params (s : State) (h : HostState) : (s.setHost h).params = s.params := rfl
@[simp] theorem State.setHost_took (s : State) (h : HostState) : (s.setHost h).took = s.took := rfl
@[simp] theorem State.setHost_bus (s : State) (h : HostState) : (s.setHost h).bus = s.bus := rfl

@[simp] theorem State.setTook_a (s : State) (t : Took) : (s.setTook t).cpu.a = s.cpu.a := rfl
@[simp] theorem State.setTook_x (s : State) (t : Took) : (s.setTook t).cpu.x = s.cpu.x := rfl
@[simp] theorem State.setTook_y (s : State) (t : Took) : (s.setTook t).cpu.y = s.cpu.y := rfl
@[simp] theorem State.setTook_pc (s : State) (t : Took) : (s.setTook t).cpu.pc = s.cpu.pc := rfl
@[simp] theorem State.setTook_sp (s : State) (t : Took) : (s.setTook t).cpu.sp = s.cpu.sp := rfl
@[simp] theorem State.setTook_flags (s : State) (t : Took) : (s.setTook t).cpu.flags = s.cpu.flags := rfl
@[simp] theorem State.setTook_cycles (s : State) (t : Took) : (s.setTook t).cpu.cycles = s.cpu.cycles := rfl
@[simp] theorem State.setTook_cls (s : State) (t : Took) : (s.setTook t).cpu.cls = s.cpu.cls := rfl
@[simp] theorem State.setTook_host (s : State) (t : Took) : (s.setTook t).host = s.host := rfl
@[simp] theorem State.setTook_params (s : State) (t : Took) : (s.setTook t).params = s.params := rfl
@[simp] theorem State.setTook_took (s : State) (t : Took) : (s.setTook t).took = t := rfl
@[simp] theorem State.setTook_bus (s : State) (t : Took) : (s.setTook t).bus = s.bus := rfl

@[simp] theorem State.clearBus_a (s : State) : (s.clearBus).cpu.a = s.cpu.a := rfl
@[simp] theorem State.clearBus_x (s : State) : (s.clearBus).cpu.x = s.cpu.x := rfl
@[simp] theorem State.clearBus_y (s : State) : (s.clearBus).cpu.y = s.cpu.y := rfl
@[simp] theorem State.clearBus_pc (s : State) : (s.clearBus).cpu.pc = s.cpu.pc := rfl
@[simp] theorem State.clearBus_sp (s : State) : (s.clearBus).cpu.sp = s.cpu.sp := rfl
@[simp] theorem State.clearBus_flags (s : State) : (s.clearBus).cpu.flags = s.cpu.flags := rfl
@[simp] theorem State.clearBus_cycles (s : State) : (s.clearBus).cpu.cycles = s.cpu.cycles := rfl
@[simp] theorem State.clearBus_cls (s : State) : (s.clearBus).cpu.cls = s.cpu.cls := rfl
@[simp] theorem State.clearBus_host (s : State) : (s.clearBus).host = s.host := rfl
@[simp] theorem State.clearBus_params (s : State) : (s.clearBus).params = s.params := rfl
@[simp] theorem State.clearBus_took (s : State) : (s.clearBus).took = s.took := rfl
@[simp] theorem State.clearBus_bus (s : State) : (s.clearBus).bus = [] := rfl

@[simp] theorem State.tick_a (s : State) (e : BusAccess) : (s.tick e).cpu.a = s.cpu.a := rfl
@[simp] theorem State.tick_x (s : State) (e : BusAccess) : (s.tick e).cpu.x = s.cpu.x := rfl
@[simp] theorem State.tick_y (s : State) (e : BusAccess) : (s.tick e).cpu.y = s.cpu.y := rfl
@[simp] theorem State.tick_pc (s : State) (e : BusAccess) : (s.tick e).cpu.pc = s.cpu.pc := rfl
@[simp] theorem State.tick_sp (s : State) (e : BusAccess) : (s.tick e).cpu.sp = s.cpu.sp := rfl
@[simp] theorem State.tick_flags (s : State) (e : BusAccess) : (s.tick e).cpu.flags = s.cpu.flags := rfl
@[simp] theorem State.tick_cycles (s : State) (e : BusAccess) : (s.tick e).cpu.cycles = s.cpu.cycles + 1 := rfl
@[simp] theorem State.tick_cls (s : State) (e : BusAccess) : (s.tick e).cpu.cls = s.cpu.cls := rfl
@[simp] theorem State.tick_host (s : State) (e : BusAccess) : (s.tick e).host = s.host := rfl
@[simp] theorem State.tick_params (s : State) (e : BusAccess) : (s.tick e).params = s.params := rfl
@[simp] theorem State.tick_took (s : State) (e : BusAccess) : (s.tick e).took = s.took := rfl
@[simp] theorem State.tick_bus (s : State) (e : BusAccess) : (s.tick e).bus = s.bus ++ [e] := rfl

@[simp] theorem storeCell_a (s : State) (k : Nat) (v : Byte) : (storeCell s k v).cpu.a = s.cpu.a := rfl
@[simp] theorem storeCell_x (s : State) (k : Nat) (v : Byte) : (storeCell s k v).cpu.x = s.cpu.x := rfl
@[simp] theorem storeCell_y (s : State) (k : Nat) (v : Byte) : (storeCell s k v).cpu.y = s.cpu.y := rfl
@[simp] theorem storeCell_pc (s : State) (k : Nat) (v : Byte) : (storeCell s k v).cpu.pc = s.cpu.pc := rfl
@[simp] theorem storeCell_sp (s : State) (k : Nat) (v : Byte) : (storeCell s k v).cpu.sp = s.cpu.sp := rfl
@[simp] theorem storeCell_flags (s : State) (k : Nat) (v : Byte) : (storeCell s k v).cpu.flags = s.cpu.flags := rfl
@[simp] theorem storeCell_cycles (s : State) (k : Nat) (v : Byte) : (storeCell s k v).cpu.cycles = s.cpu.cycles := rfl
@[simp] theorem storeCell_cls (s : State) (k : Nat) (v : Byte) : (storeCell s k v).cpu.cls = s.cpu.cls := rfl
@[simp] theorem storeCell_host (s : State) (k : Nat) (v : Byte) : (storeCell s k v).host = s.host.edit (.storeCell k v) := rfl
@[simp] theorem storeCell_params (s : State) (k : Nat) (v : Byte) : (storeCell s k v).params = s.params := rfl
@[simp] theorem storeCell_took (s : State) (k : Nat) (v : Byte) : (storeCell s k v).took = s.took := rfl
@[simp] theorem storeCell_bus (s : State) (k : Nat) (v : Byte) : (storeCell s k v).bus = s.bus := rfl

@[simp] theorem assignA_a (v : Byte) (s : State) : (assignA v s).cpu.a = v := rfl
@[simp] theorem assignA_x (v : Byte) (s : State) : (assignA v s).cpu.x = s.cpu.x := rfl
@[simp] theorem assignA_y (v : Byte) (s : State) : (assignA v s).cpu.y = s.cpu.y := rfl
@[simp] theorem assignA_pc (v : Byte) (s : State) : (assignA v s).cpu.pc = s.cpu.pc := rfl
@[simp] theorem assignA_sp (v : Byte) (s : State) : (assignA v s).cpu.sp = s.cpu.sp := rfl
@[simp] theorem assignA_flags (v : Byte) (s : State) : (assignA v s).cpu.flags = s.cpu.flags.setNZ v := rfl
@[simp] theorem assignA_cycles (v : Byte) (s : State) : (assignA v s).cpu.cycles = s.cpu.cycles := rfl
@[simp] theorem assignA_cls (v : Byte) (s : State) : (assignA v s).cpu.cls = s.cpu.cls := rfl
@[simp] theorem assignA_host (v : Byte) (s : State) : (assignA v s).host = s.host := rfl
@[simp] theorem assignA_params (v : Byte) (s : State) : (assignA v s).params = s.params := rfl
@[simp] theorem assignA_took (v : Byte) (s : State) : (assignA v s).took = s.took := rfl
@[simp] theorem assignA_bus (v : Byte) (s : State) : (assignA v s).bus = s.bus := rfl

@[simp] theorem assignX_a (v : Byte) (s : State) : (assignX v s).cpu.a = s.cpu.a := rfl
@[simp] theorem assignX_x (v : Byte) (s : State) : (assignX v s).cpu.x = v := rfl
@[simp] theorem assignX_y (v : Byte) (s : State) : (assignX v s).cpu.y = s.cpu.y := rfl
@[simp] theorem assignX_pc (v : Byte) (s : State) : (assignX v s).cpu.pc = s.cpu.pc := rfl
@[simp] theorem assignX_sp (v : Byte) (s : State) : (assignX v s).cpu.sp = s.cpu.sp := rfl
@[simp] theorem assignX_flags (v : Byte) (s : State) : (assignX v s).cpu.flags = s.cpu.flags.setNZ v := rfl
@[simp] theorem assignX_cycles (v : Byte) (s : State) : (assignX v s).cpu.cycles = s.cpu.cycles := rfl
@[simp] theorem assignX_cls (v : Byte) (s : State) : (assignX v s).cpu.cls = s.cpu.cls := rfl
@[simp] theorem assignX_host (v : Byte) (s : State) : (assignX v s).host = s.host := rfl
@[simp] theorem assignX_params (v : Byte) (s : State) : (assignX v s).params = s.params := rfl
@[simp] theorem assignX_took (v : Byte) (s : State) : (assignX v s).took = s.took := rfl
@[simp] theorem assignX_bus (v : Byte) (s : State) : (assignX v s).bus = s.bus := rfl

@[simp] theorem assignY_a (v : Byte) (s : State) : (assignY v s).cpu.a = s.cpu.a := rfl
@[simp] theorem assignY_x (v : Byte) (s : State) : (assignY v s).cpu.x = s.cpu.x := rfl
@[simp] theorem assignY_y (v : Byte) (s : State) : (assignY v s).cpu.y = v := rfl
@[simp] theorem assignY_pc (v : Byte) (s : State) : (assignY v s).cpu.pc = s.cpu.pc := rfl
@[simp] theorem assignY_sp (v : Byte) (s : State) : (assignY v s).cpu.sp = s.cpu.sp := rfl
@[simp] theorem assignY_flags (v : Byte) (s : State) : (assignY v s).cpu.flags = s.cpu.flags.setNZ v := rfl
@[simp] theorem assignY_cycles (v : Byte) (s : State) : (assignY v s).cpu.cycles = s.cpu.cycles := rfl
@[simp] theorem assignY_cls (v : Byte) (s : State) : (assignY v s).cpu.cls = s.cpu.cls := rfl
@[simp] theorem assignY_host (v : Byte) (s : State) : (assignY v s).host = s.host := rfl
@[simp] theorem assignY_params (v : Byte) (s : State) : (assignY v s).params = s.params := rfl
@[simp] theorem assignY_took (v : Byte) (s : State) : (assignY v s).took = s.took := rfl
@[simp] theorem assignY_bus (v : Byte) (s : State) : (assignY v s).bus = s.bus := rfl

end Sys2Proof.Machine
end

