-- ==== Sys2Proof/Laws/Ops.lean ====
section
/-! SUPPORT. One lemma per shared operation that says everything it can do when it answers a next state, in
every state, with callbacks and without. -/

namespace Sys2Proof.Machine

/-! ### Sequencing -/

theorem andThen_eq_next {α β : Type} {o : Res α} {k : α → State → Host.Outcome β Fault Refusal} {r : β} :
    andThen o k = .next r ↔ ∃ v s, o = .next (v, s) ∧ k v s = .next r := by
  cases o with
  | next p => obtain ⟨v, s⟩ := p; simp [andThen]
  | fault f => simp [andThen]
  | refused f => simp [andThen]

@[simp] theorem andThen_next {α β : Type} (v : α) (s : State)
    (k : α → State → Host.Outcome β Fault Refusal) : andThen (.next (v, s)) k = k v s := rfl

/-! ### The memory access layer -/

/-- `t` is `s` with the host state changed, from a canonical one to a canonical one. -/
def Hosted (s t : State) : Prop := ∃ h, (s.host.wf = true → h.wf = true) ∧ t = s.setHost h

theorem Hosted.refl (s : State) : Hosted s s := ⟨s.host, id, rfl⟩

theorem Hosted.trans {s t u : State} (h : Hosted s t) (h' : Hosted t u) : Hosted s u := by
  obtain ⟨h₁, w₁, rfl⟩ := h
  obtain ⟨h₂, w₂, rfl⟩ := h'
  exact ⟨h₂, fun w => w₂ (w₁ w), rfl⟩

theorem afterCallback_next {α : Type} {a : Addr} {s t : State} {r : CallbackResult α} {v : α}
    (h : afterCallback a s r = .next (v, t)) : Hosted s t := by
  cases r with
  | returned w es =>
    simp only [afterCallback, Host.Outcome.next.injEq, Prod.mk.injEq] at h
    exact ⟨s.host.edits es, HostState.edits_wf es, h.2.symm⟩
  | reentered => simp [afterCallback] at h

theorem breakpointIf_next {on : Bool} {a : Addr} {s t : State} {v : Unit}
    (h : breakpointIf on a s = .next (v, t)) : Hosted s t := by
  unfold breakpointIf at h
  split at h
  · exact afterCallback_next h
  · simp only [Host.Outcome.next.injEq, Prod.mk.injEq] at h
    exact h.2 ▸ Hosted.refl s

theorem debugRead_next {a : Addr} {s t : State} {v : Byte} (h : debugRead a s = .next (v, t)) :
    peek s a = some v ∧ t = s := by
  unfold debugRead at h
  split at h
  · next w hw =>
    simp only [Host.Outcome.next.injEq, Prod.mk.injEq] at h
    exact ⟨h.1 ▸ hw, h.2.symm⟩
  · exact absurd h (by simp)

theorem rawStore_next {a : Addr} {v : Byte} {s t : State} {u : Unit} (h : rawStore a v s = .next (u, t)) :
    ∃ cell, writeCell s a = some cell ∧ t = storeCell s cell v := by
  unfold rawStore at h
  split at h
  · next cell hc =>
    simp only [Host.Outcome.next.injEq, Prod.mk.injEq] at h
    exact ⟨cell, hc, h.2.symm⟩
  · exact absurd h (by simp)

theorem storeCell_hosted (s : State) (cell : Nat) (v : Byte) : Hosted s (storeCell s cell v) :=
  ⟨_, HostState.edit_wf (.storeCell cell v), rfl⟩

/-- A bus read that completes: host state may have changed by callbacks, one cycle is counted, and nothing
else of the machine has changed (20_memory.md R55). -/
theorem memRead_next {a : Addr} {s t : State} {v : Byte} (h : memRead a s = .next (v, t)) :
    ∃ u, Hosted s u ∧ t = u.tick (.read a v) := by
  unfold memRead at h
  split at h
  · exact absurd h (by simp)
  · simp only [andThen_eq_next, Host.Outcome.next.injEq, Prod.mk.injEq] at h
    obtain ⟨_, s₁, h₁, w, s₂, h₂, rfl, rfl⟩ := h
    refine ⟨s₂, (breakpointIf_next h₁).trans ?_, rfl⟩
    split at h₂
    · exact afterCallback_next h₂
    · exact (debugRead_next h₂).2 ▸ Hosted.refl s₁

/-- A bus write that completes (20_memory.md R56). -/
theorem memWrite_next {a : Addr} {v : Byte} {s t : State} {w : Unit} (h : memWrite a v s = .next (w, t)) :
    ∃ u, Hosted s u ∧ t = u.tick (.write a v) := by
  unfold memWrite at h
  split at h
  · exact absurd h (by simp)
  · simp only [andThen_eq_next, Host.Outcome.next.injEq, Prod.mk.injEq] at h
    obtain ⟨_, s₁, h₁, _, s₂, h₂, _, s₃, h₃, -, rfl⟩ := h
    refine ⟨s₃, (Hosted.trans ?_ (breakpointIf_next h₂)).trans ?_, rfl⟩
    · split at h₁
      · exact afterCallback_next h₁
      · simp only [Host.Outcome.next.injEq, Prod.mk.injEq] at h₁
        exact h₁.2 ▸ Hosted.refl s
    · split at h₃
      · simp only [Host.Outcome.next.injEq, Prod.mk.injEq] at h₃
        exact h₃.2 ▸ Hosted.refl s₂
      · obtain ⟨cell, -, rfl⟩ := rawStore_next h₃
        exact storeCell_hosted s₂ cell v

/-! ### Primitives -/

theorem dummyRead_next {a : Addr} {s t : State} {w : Unit} (h : dummyRead a s = .next (w, t)) :
    ∃ u v, Hosted s u ∧ t = u.tick (.read a v) := by
  simp only [dummyRead, andThen_eq_next, Host.Outcome.next.injEq, Prod.mk.injEq] at h
  obtain ⟨v, s₁, h₁, -, rfl⟩ := h
  obtain ⟨u, hu, rfl⟩ := memRead_next h₁
  exact ⟨u, v, hu, rfl⟩

theorem fetchByte_next {s t : State} {v : Byte} (h : fetchByte s = .next (v, t)) :
    ∃ u, Hosted s u ∧ t = (u.tick (.read s.cpu.pc v)).setPc (s.cpu.pc + 1) := by
  simp only [fetchByte, andThen_eq_next, Host.Outcome.next.injEq, Prod.mk.injEq] at h
  obtain ⟨v, s₁, h₁, rfl, rfl⟩ := h
  obtain ⟨u, hu, rfl⟩ := memRead_next h₁
  obtain ⟨h', hw, rfl⟩ := hu
  exact ⟨_, ⟨h', hw, rfl⟩, rfl⟩

theorem push_next {v : Byte} {s t : State} {w : Unit} (h : push v s = .next (w, t)) :
    ∃ u, Hosted s u ∧ t = (u.tick (.write s.cpu.sp v)).setSp (spDown s.cpu.sp) := by
  simp only [push, andThen_eq_next, Host.Outcome.next.injEq, Prod.mk.injEq] at h
  obtain ⟨_, s₁, h₁, -, rfl⟩ := h
  obtain ⟨u, hu, rfl⟩ := memWrite_next h₁
  obtain ⟨h', hw, rfl⟩ := hu
  exact ⟨_, ⟨h', hw, rfl⟩, rfl⟩

theorem pull_next {s t : State} {v : Byte} (h : pull s = .next (v, t)) :
    ∃ u, Hosted (s.setSp (spUp s.cpu.sp)) u ∧ t = u.tick (.read (spUp s.cpu.sp) v) :=
  memRead_next h

end Sys2Proof.Machine
end

