-- ==== Sys2Proof/Laws/Closure.lean ====
section
/-! SUPPORT. The induction over what an instruction does, packaged once: a relation between states that is
reflexive, transitive and closed under the primitives an operation is built from holds across the operation.
Frames and invariants are this with a relation of their own. -/

namespace Sys2Proof.Machine

/-- Closed under bus reads and changes of PC. -/
structure ReadClosed (R : State → State → Prop) : Prop where
  refl : ∀ s, R s s
  trans : ∀ {s t u}, R s t → R t u → R s u
  memRead : ∀ {a s v t}, memRead a s = .next (v, t) → R s t
  setPc : ∀ s v, R s (s.setPc v)

/-- Closed under bus writes as well. -/
structure BusClosed (R : State → State → Prop) : Prop extends ReadClosed R where
  memWrite : ∀ {a v s w t}, memWrite a v s = .next (w, t) → R s t

/-- Closed under everything an instruction does. Every value put in SP is `0x0100 | v`
(40_pipelines.md R106, R107, 41_load_store_transfer.md R211). -/
structure AllClosed (R : State → State → Prop) : Prop extends BusClosed R where
  setA : ∀ s v, R s (s.setA v)
  setX : ∀ s v, R s (s.setX v)
  setY : ∀ s v, R s (s.setY v)
  setSp : ∀ s v, R s (s.setSp (word 0x01 v))
  setFlags : ∀ s f, R s (s.setFlags f)

namespace ReadClosed

variable {R : State → State → Prop} (C : ReadClosed R)
include C

theorem dummyRead {a : Addr} {s t : State} {w : Unit} (h : dummyRead a s = .next (w, t)) : R s t := by
  simp only [Machine.dummyRead, andThen_eq_next, Host.Outcome.next.injEq, Prod.mk.injEq] at h
  obtain ⟨_, s₁, h₁, -, rfl⟩ := h
  exact C.memRead h₁

theorem fetchByte {s t : State} {v : Byte} (h : fetchByte s = .next (v, t)) : R s t := by
  simp only [Machine.fetchByte, andThen_eq_next, Host.Outcome.next.injEq, Prod.mk.injEq] at h
  obtain ⟨_, s₁, h₁, -, rfl⟩ := h
  exact C.trans (C.memRead h₁) (C.setPc _ _)

theorem pull (hsp : ∀ s v, R s (s.setSp (word 0x01 v))) {s t : State} {v : Byte}
    (h : pull s = .next (v, t)) : R s t :=
  C.trans (hsp s _) (C.memRead h)

theorem pullFlags (hsp : ∀ s v, R s (s.setSp (word 0x01 v))) (hf : ∀ s f, R s (s.setFlags f))
    {s t : State} {w : Unit} (h : pullFlags s = .next (w, t)) : R s t := by
  simp only [Machine.pullFlags, andThen_eq_next, Host.Outcome.next.injEq, Prod.mk.injEq] at h
  obtain ⟨_, s₁, h₁, -, rfl⟩ := h
  exact C.trans (C.pull hsp h₁) (hf _ _)

/-! Addressing pipelines. -/

theorem eaZp {s t : State} {a : Addr} (h : eaZp s = .next (a, t)) : R s t := by
  simp only [Machine.eaZp, andThen_eq_next, Host.Outcome.next.injEq, Prod.mk.injEq] at h
  obtain ⟨_, s₁, h₁, -, rfl⟩ := h
  exact C.fetchByte h₁

theorem eaZpIndexed {idx : Cpu → Byte} {s t : State} {a : Addr} (h : eaZpIndexed idx s = .next (a, t)) :
    R s t := by
  simp only [Machine.eaZpIndexed, andThen_eq_next, Host.Outcome.next.injEq, Prod.mk.injEq] at h
  obtain ⟨_, s₁, h₁, _, s₂, h₂, -, rfl⟩ := h
  exact C.trans (C.fetchByte h₁) (C.dummyRead h₂)

theorem eaAbs {s t : State} {a : Addr} (h : eaAbs s = .next (a, t)) : R s t := by
  simp only [Machine.eaAbs, andThen_eq_next, Host.Outcome.next.injEq, Prod.mk.injEq] at h
  obtain ⟨_, s₁, h₁, _, s₂, h₂, -, rfl⟩ := h
  exact C.trans (C.fetchByte h₁) (C.fetchByte h₂)

theorem dummyIfCrossed {base : Addr} {idx : Byte} {s t : State} {w : Unit}
    (h : dummyIfCrossed base idx s = .next (w, t)) : R s t := by
  unfold Machine.dummyIfCrossed at h
  split at h
  · exact C.dummyRead h
  · simp only [Host.Outcome.next.injEq, Prod.mk.injEq] at h
    exact h.2 ▸ C.refl s

theorem eaAbsIndexedRead {idx : Cpu → Byte} {s t : State} {a : Addr}
    (h : eaAbsIndexedRead idx s = .next (a, t)) : R s t := by
  simp only [Machine.eaAbsIndexedRead, andThen_eq_next, Host.Outcome.next.injEq, Prod.mk.injEq] at h
  obtain ⟨_, s₁, h₁, _, s₂, h₂, -, rfl⟩ := h
  exact C.trans (C.eaAbs h₁) (C.dummyIfCrossed h₂)

theorem eaAbsIndexedWrite {idx : Cpu → Byte} {s t : State} {a : Addr}
    (h : eaAbsIndexedWrite idx s = .next (a, t)) : R s t := by
  simp only [Machine.eaAbsIndexedWrite, andThen_eq_next, Host.Outcome.next.injEq, Prod.mk.injEq] at h
  obtain ⟨_, s₁, h₁, _, s₂, h₂, -, rfl⟩ := h
  exact C.trans (C.eaAbs h₁) (C.dummyRead h₂)

theorem zeroPageWord {p : Byte} {s t : State} {a : Addr} (h : zeroPageWord p s = .next (a, t)) :
    R s t := by
  simp only [Machine.zeroPageWord, andThen_eq_next, Host.Outcome.next.injEq, Prod.mk.injEq] at h
  obtain ⟨_, s₁, h₁, _, s₂, h₂, -, rfl⟩ := h
  exact C.trans (C.memRead h₁) (C.memRead h₂)

theorem eaIndX {s t : State} {a : Addr} (h : eaIndX s = .next (a, t)) : R s t := by
  simp only [Machine.eaIndX, andThen_eq_next] at h
  obtain ⟨_, s₁, h₁, _, s₂, h₂, h₃⟩ := h
  exact C.trans (C.trans (C.fetchByte h₁) (C.dummyRead h₂)) (C.zeroPageWord h₃)

theorem eaIndYRead {s t : State} {a : Addr} (h : eaIndYRead s = .next (a, t)) : R s t := by
  simp only [Machine.eaIndYRead, andThen_eq_next, Host.Outcome.next.injEq, Prod.mk.injEq] at h
  obtain ⟨_, s₁, h₁, _, s₂, h₂, _, s₃, h₃, -, rfl⟩ := h
  exact C.trans (C.trans (C.fetchByte h₁) (C.zeroPageWord h₂)) (C.dummyIfCrossed h₃)

theorem eaIndYWrite {s t : State} {a : Addr} (h : eaIndYWrite s = .next (a, t)) : R s t := by
  simp only [Machine.eaIndYWrite, andThen_eq_next, Host.Outcome.next.injEq, Prod.mk.injEq] at h
  obtain ⟨_, s₁, h₁, _, s₂, h₂, _, s₃, h₃, -, rfl⟩ := h
  exact C.trans (C.trans (C.fetchByte h₁) (C.zeroPageWord h₂)) (C.dummyRead h₃)

/-! Kinds. -/

theorem implied {body : State → State} (hb : ∀ s, R s (body s)) {s t : State}
    (h : implied body s = .next t) : R s t := by
  simp only [Machine.implied, andThen_eq_next, Host.Outcome.next.injEq] at h
  obtain ⟨_, s₁, h₁, rfl⟩ := h
  exact C.trans (C.dummyRead h₁) (hb s₁)

theorem immediate {body : Byte → State → State} (hb : ∀ v s, R s (body v s)) {s t : State}
    (h : immediate body s = .next t) : R s t := by
  simp only [Machine.immediate, andThen_eq_next, Host.Outcome.next.injEq] at h
  obtain ⟨v, s₁, h₁, rfl⟩ := h
  exact C.trans (C.fetchByte h₁) (hb v s₁)

theorem readKind {ea : State → Res Addr} {body : Byte → State → State}
    (he : ∀ {s t a}, ea s = .next (a, t) → R s t) (hb : ∀ v s, R s (body v s)) {s t : State}
    (h : readKind ea body s = .next t) : R s t := by
  simp only [Machine.readKind, andThen_eq_next, Host.Outcome.next.injEq] at h
  obtain ⟨_, s₁, h₁, v, s₂, h₂, rfl⟩ := h
  exact C.trans (C.trans (he h₁) (C.memRead h₂)) (hb v s₂)

theorem branch {cond : Flags → Bool} {s t : State} (h : branch cond s = .next t) : R s t := by
  simp only [Machine.branch, andThen_eq_next] at h
  obtain ⟨off, s₁, h₁, h₂⟩ := h
  split at h₂
  · simp only [Host.Outcome.next.injEq] at h₂
    exact h₂ ▸ C.fetchByte h₁
  · simp only [andThen_eq_next, Host.Outcome.next.injEq] at h₂
    obtain ⟨_, s₂, h₂, _, s₃, h₃, rfl⟩ := h₂
    refine C.trans (C.trans (C.trans (C.fetchByte h₁) (C.dummyRead h₂)) ?_) (C.setPc _ _)
    split at h₃
    · exact C.dummyRead h₃
    · simp only [Host.Outcome.next.injEq, Prod.mk.injEq] at h₃
      exact h₃.2 ▸ C.refl s₂

theorem returnFromHandler (hsp : ∀ s v, R s (s.setSp (word 0x01 v))) (hf : ∀ s f, R s (s.setFlags f))
    {s t : State} (h : returnFromHandler s = .next t) : R s t := by
  simp only [Machine.returnFromHandler, andThen_eq_next, Host.Outcome.next.injEq] at h
  obtain ⟨_, s₁, h₁, _, s₂, h₂, _, s₃, h₃, _, s₄, h₄, rfl⟩ := h
  exact C.trans (C.trans (C.trans (C.trans (C.dummyRead h₁) (C.pullFlags hsp hf h₂)) (C.pull hsp h₃))
    (C.pull hsp h₄)) (C.setPc _ _)

end ReadClosed

namespace BusClosed

variable {R : State → State → Prop} (C : BusClosed R)
include C

theorem push (hsp : ∀ s v, R s (s.setSp (word 0x01 v))) {v : Byte} {s t : State} {w : Unit}
    (h : push v s = .next (w, t)) : R s t := by
  simp only [Machine.push, andThen_eq_next, Host.Outcome.next.injEq, Prod.mk.injEq] at h
  obtain ⟨_, s₁, h₁, -, rfl⟩ := h
  exact C.trans (C.memWrite h₁) (hsp _ _)

theorem writeKind {ea : State → Res Addr} {value : Cpu → Byte}
    (he : ∀ {s t a}, ea s = .next (a, t) → R s t) {s t : State}
    (h : writeKind ea value s = .next t) : R s t := by
  simp only [Machine.writeKind, andThen_eq_next, Host.Outcome.next.injEq] at h
  obtain ⟨_, s₁, h₁, _, s₂, h₂, rfl⟩ := h
  exact C.trans (he h₁) (C.memWrite h₂)

theorem rmwKind {ea : State → Res Addr} {f : Flags → Byte → Byte × Flags}
    (he : ∀ {s t a}, ea s = .next (a, t) → R s t)
    (hf : ∀ s v, R s (s.setFlags (f s.cpu.flags v).2)) {s t : State}
    (h : rmwKind ea f s = .next t) : R s t := by
  simp only [Machine.rmwKind, rmwTail, andThen_eq_next, Host.Outcome.next.injEq] at h
  obtain ⟨_, s₁, h₁, v, s₂, h₂, _, s₃, h₃, _, s₄, h₄, rfl⟩ := h
  have hs : s₄.cpu.flags = s₃.cpu.flags := by
    obtain ⟨u, ⟨h', -, rfl⟩, rfl⟩ := memWrite_next h₄
    rfl
  refine C.trans (C.trans (C.trans (C.trans (he h₁) (C.memRead h₂)) (C.memWrite h₃)) (C.memWrite h₄)) ?_
  exact hs ▸ hf s₄ v

theorem enterHandler (hsp : ∀ s v, R s (s.setSp (word 0x01 v)))
    (hi : ∀ s, R s (s.setFlags (s.cpu.flags.setI true))) {b : Bool} {vec : Addr} {s t : State}
    (h : enterHandler b vec s = .next t) : R s t := by
  simp only [Machine.enterHandler, andThen_eq_next, Host.Outcome.next.injEq] at h
  obtain ⟨_, s₁, h₁, _, s₂, h₂, _, s₃, h₃, _, s₄, h₄, _, s₅, h₅, rfl⟩ := h
  exact C.trans (C.trans (C.trans (C.trans (C.trans (C.trans (C.push hsp h₁) (C.push hsp h₂))
    (C.push hsp h₃)) (hi _)) (C.memRead h₄)) (C.memRead h₅)) (C.setPc _ _)

theorem interruptEntry (hsp : ∀ s v, R s (s.setSp (word 0x01 v)))
    (hi : ∀ s, R s (s.setFlags (s.cpu.flags.setI true))) {vec : Addr} {s t : State}
    (h : interruptEntry vec s = .next t) : R s t := by
  simp only [Machine.interruptEntry, andThen_eq_next] at h
  obtain ⟨_, s₁, h₁, _, s₂, h₂, h₃⟩ := h
  exact C.trans (C.trans (C.dummyRead h₁) (C.dummyRead h₂)) (C.enterHandler hsp hi h₃)

end BusClosed

end Sys2Proof.Machine
end

