-- ==== Sys2Proof/Laws/Exec.lean ====
section
/-! SUPPORT. The case split over the instructions, once: a relation closed under everything an instruction
does holds across every instruction and every step; then `Advance`, the relation the invariants come from. -/

namespace Sys2Proof.Machine

namespace AllClosed

variable {R : State → State → Prop} (C : AllClosed R)
include C

theorem assignA (v : Byte) (s : State) : R s (assignA v s) := C.trans (C.setA s v) (C.setFlags _ _)
theorem assignX (v : Byte) (s : State) : R s (assignX v s) := C.trans (C.setX s v) (C.setFlags _ _)
theorem assignY (v : Byte) (s : State) : R s (assignY v s) := C.trans (C.setY s v) (C.setFlags _ _)
theorem adcBody (v : Byte) (s : State) : R s (adcBody v s) := C.trans (C.setA s _) (C.setFlags _ _)
theorem sbcBody (v : Byte) (s : State) : R s (sbcBody v s) := C.trans (C.setA s _) (C.setFlags _ _)
theorem compareBody (reg : Cpu → Byte) (v : Byte) (s : State) : R s (compareBody reg v s) := C.setFlags s _
theorem andBody (v : Byte) (s : State) : R s (andBody v s) := C.assignA _ s
theorem oraBody (v : Byte) (s : State) : R s (oraBody v s) := C.assignA _ s
theorem eorBody (v : Byte) (s : State) : R s (eorBody v s) := C.assignA _ s
theorem bitBody (v : Byte) (s : State) : R s (bitBody v s) := C.setFlags s _
theorem onAccumulator (f : Flags → Byte → Byte × Flags) (s : State) : R s (onAccumulator f s) :=
  C.trans (C.setA s _) (C.setFlags _ _)
theorem setFlag (f : Flags → Flags) (s : State) : R s (setFlag f s) := C.setFlags s _

theorem exec {i : Instr} {s t : State} (h : exec i s = .next t) : R s t := by
  cases i with
  | ldaImm => exact C.immediate C.assignA h
  | ldaZp => exact C.readKind C.eaZp C.assignA h
  | ldaZpX => exact C.readKind C.eaZpIndexed C.assignA h
  | ldaAbs => exact C.readKind C.eaAbs C.assignA h
  | ldaAbsX => exact C.readKind C.eaAbsIndexedRead C.assignA h
  | ldaAbsY => exact C.readKind C.eaAbsIndexedRead C.assignA h
  | ldaIndX => exact C.readKind C.eaIndX C.assignA h
  | ldaIndY => exact C.readKind C.eaIndYRead C.assignA h
  | ldxImm => exact C.immediate C.assignX h
  | ldxZp => exact C.readKind C.eaZp C.assignX h
  | ldxZpY => exact C.readKind C.eaZpIndexed C.assignX h
  | ldxAbs => exact C.readKind C.eaAbs C.assignX h
  | ldxAbsY => exact C.readKind C.eaAbsIndexedRead C.assignX h
  | ldyImm => exact C.immediate C.assignY h
  | ldyZp => exact C.readKind C.eaZp C.assignY h
  | ldyZpX => exact C.readKind C.eaZpIndexed C.assignY h
  | ldyAbs => exact C.readKind C.eaAbs C.assignY h
  | ldyAbsX => exact C.readKind C.eaAbsIndexedRead C.assignY h
  | staZp => exact C.writeKind C.eaZp h
  | staZpX => exact C.writeKind C.eaZpIndexed h
  | staAbs => exact C.writeKind C.eaAbs h
  | staAbsX => exact C.writeKind C.eaAbsIndexedWrite h
  | staAbsY => exact C.writeKind C.eaAbsIndexedWrite h
  | staIndX => exact C.writeKind C.eaIndX h
  | staIndY => exact C.writeKind C.eaIndYWrite h
  | stxZp => exact C.writeKind C.eaZp h
  | stxZpY => exact C.writeKind C.eaZpIndexed h
  | stxAbs => exact C.writeKind C.eaAbs h
  | styZp => exact C.writeKind C.eaZp h
  | styZpX => exact C.writeKind C.eaZpIndexed h
  | styAbs => exact C.writeKind C.eaAbs h
  | tax => exact C.implied (fun s => C.assignX _ s) h
  | tay => exact C.implied (fun s => C.assignY _ s) h
  | txa => exact C.implied (fun s => C.assignA _ s) h
  | tya => exact C.implied (fun s => C.assignA _ s) h
  | tsx => exact C.implied (fun s => C.assignX _ s) h
  | txs => exact C.implied (fun s => C.setSp s _) h
  | adcImm => exact C.immediate C.adcBody h
  | adcZp => exact C.readKind C.eaZp C.adcBody h
  | adcZpX => exact C.readKind C.eaZpIndexed C.adcBody h
  | adcAbs => exact C.readKind C.eaAbs C.adcBody h
  | adcAbsX => exact C.readKind C.eaAbsIndexedRead C.adcBody h
  | adcAbsY => exact C.readKind C.eaAbsIndexedRead C.adcBody h
  | adcIndX => exact C.readKind C.eaIndX C.adcBody h
  | adcIndY => exact C.readKind C.eaIndYRead C.adcBody h
  | sbcImm => exact C.immediate C.sbcBody h
  | sbcZp => exact C.readKind C.eaZp C.sbcBody h
  | sbcZpX => exact C.readKind C.eaZpIndexed C.sbcBody h
  | sbcAbs => exact C.readKind C.eaAbs C.sbcBody h
  | sbcAbsX => exact C.readKind C.eaAbsIndexedRead C.sbcBody h
  | sbcAbsY => exact C.readKind C.eaAbsIndexedRead C.sbcBody h
  | sbcIndX => exact C.readKind C.eaIndX C.sbcBody h
  | sbcIndY => exact C.readKind C.eaIndYRead C.sbcBody h
  | cmpImm => exact C.immediate (C.compareBody _) h
  | cmpZp => exact C.readKind C.eaZp (C.compareBody _) h
  | cmpZpX => exact C.readKind C.eaZpIndexed (C.compareBody _) h
  | cmpAbs => exact C.readKind C.eaAbs (C.compareBody _) h
  | cmpAbsX => exact C.readKind C.eaAbsIndexedRead (C.compareBody _) h
  | cmpAbsY => exact C.readKind C.eaAbsIndexedRead (C.compareBody _) h
  | cmpIndX => exact C.readKind C.eaIndX (C.compareBody _) h
  | cmpIndY => exact C.readKind C.eaIndYRead (C.compareBody _) h
  | cpxImm => exact C.immediate (C.compareBody _) h
  | cpxZp => exact C.readKind C.eaZp (C.compareBody _) h
  | cpxAbs => exact C.readKind C.eaAbs (C.compareBody _) h
  | cpyImm => exact C.immediate (C.compareBody _) h
  | cpyZp => exact C.readKind C.eaZp (C.compareBody _) h
  | cpyAbs => exact C.readKind C.eaAbs (C.compareBody _) h
  | incZp => exact C.rmwKind C.eaZp (fun s _ => C.setFlags s _) h
  | incZpX => exact C.rmwKind C.eaZpIndexed (fun s _ => C.setFlags s _) h
  | incAbs => exact C.rmwKind C.eaAbs (fun s _ => C.setFlags s _) h
  | incAbsX => exact C.rmwKind C.eaAbsIndexedWrite (fun s _ => C.setFlags s _) h
  | decZp => exact C.rmwKind C.eaZp (fun s _ => C.setFlags s _) h
  | decZpX => exact C.rmwKind C.eaZpIndexed (fun s _ => C.setFlags s _) h
  | decAbs => exact C.rmwKind C.eaAbs (fun s _ => C.setFlags s _) h
  | decAbsX => exact C.rmwKind C.eaAbsIndexedWrite (fun s _ => C.setFlags s _) h
  | inx => exact C.implied (fun s => C.assignX _ s) h
  | iny => exact C.implied (fun s => C.assignY _ s) h
  | dex => exact C.implied (fun s => C.assignX _ s) h
  | dey => exact C.implied (fun s => C.assignY _ s) h
  | andImm => exact C.immediate C.andBody h
  | andZp => exact C.readKind C.eaZp C.andBody h
  | andZpX => exact C.readKind C.eaZpIndexed C.andBody h
  | andAbs => exact C.readKind C.eaAbs C.andBody h
  | andAbsX => exact C.readKind C.eaAbsIndexedRead C.andBody h
  | andAbsY => exact C.readKind C.eaAbsIndexedRead C.andBody h
  | andIndX => exact C.readKind C.eaIndX C.andBody h
  | andIndY => exact C.readKind C.eaIndYRead C.andBody h
  | oraImm => exact C.immediate C.oraBody h
  | oraZp => exact C.readKind C.eaZp C.oraBody h
  | oraZpX => exact C.readKind C.eaZpIndexed C.oraBody h
  | oraAbs => exact C.readKind C.eaAbs C.oraBody h
  | oraAbsX => exact C.readKind C.eaAbsIndexedRead C.oraBody h
  | oraAbsY => exact C.readKind C.eaAbsIndexedRead C.oraBody h
  | oraIndX => exact C.readKind C.eaIndX C.oraBody h
  | oraIndY => exact C.readKind C.eaIndYRead C.oraBody h
  | eorImm => exact C.immediate C.eorBody h
  | eorZp => exact C.readKind C.eaZp C.eorBody h
  | eorZpX => exact C.readKind C.eaZpIndexed C.eorBody h
  | eorAbs => exact C.readKind C.eaAbs C.eorBody h
  | eorAbsX => exact C.readKind C.eaAbsIndexedRead C.eorBody h
  | eorAbsY => exact C.readKind C.eaAbsIndexedRead C.eorBody h
  | eorIndX => exact C.readKind C.eaIndX C.eorBody h
  | eorIndY => exact C.readKind C.eaIndYRead C.eorBody h
  | bitZp => exact C.readKind C.eaZp C.bitBody h
  | bitAbs => exact C.readKind C.eaAbs C.bitBody h
  | aslA => exact C.implied (C.onAccumulator _) h
  | aslZp => exact C.rmwKind C.eaZp (fun s _ => C.setFlags s _) h
  | aslZpX => exact C.rmwKind C.eaZpIndexed (fun s _ => C.setFlags s _) h
  | aslAbs => exact C.rmwKind C.eaAbs (fun s _ => C.setFlags s _) h
  | aslAbsX => exact C.rmwKind C.eaAbsIndexedWrite (fun s _ => C.setFlags s _) h
  | lsrA => exact C.implied (C.onAccumulator _) h
  | lsrZp => exact C.rmwKind C.eaZp (fun s _ => C.setFlags s _) h
  | lsrZpX => exact C.rmwKind C.eaZpIndexed (fun s _ => C.setFlags s _) h
  | lsrAbs => exact C.rmwKind C.eaAbs (fun s _ => C.setFlags s _) h
  | lsrAbsX => exact C.rmwKind C.eaAbsIndexedWrite (fun s _ => C.setFlags s _) h
  | rolA => exact C.implied (C.onAccumulator _) h
  | rolZp => exact C.rmwKind C.eaZp (fun s _ => C.setFlags s _) h
  | rolZpX => exact C.rmwKind C.eaZpIndexed (fun s _ => C.setFlags s _) h
  | rolAbs => exact C.rmwKind C.eaAbs (fun s _ => C.setFlags s _) h
  | rolAbsX => exact C.rmwKind C.eaAbsIndexedWrite (fun s _ => C.setFlags s _) h
  | rorA => exact C.implied (C.onAccumulator _) h
  | rorZp => exact C.rmwKind C.eaZp (fun s _ => C.setFlags s _) h
  | rorZpX => exact C.rmwKind C.eaZpIndexed (fun s _ => C.setFlags s _) h
  | rorAbs => exact C.rmwKind C.eaAbs (fun s _ => C.setFlags s _) h
  | rorAbsX => exact C.rmwKind C.eaAbsIndexedWrite (fun s _ => C.setFlags s _) h
  | bpl => exact C.branch (show branch (fun f => !f.n) s = .next t from h)
  | bmi => exact C.branch (show branch (fun f => f.n) s = .next t from h)
  | bvc => exact C.branch (show branch (fun f => !f.v) s = .next t from h)
  | bvs => exact C.branch (show branch (fun f => f.v) s = .next t from h)
  | bcc => exact C.branch (show branch (fun f => !f.c) s = .next t from h)
  | bcs => exact C.branch (show branch (fun f => f.c) s = .next t from h)
  | bne => exact C.branch (show branch (fun f => !f.z) s = .next t from h)
  | beq => exact C.branch (show branch (fun f => f.z) s = .next t from h)
  | jmpAbs =>
    simp only [Machine.exec, execJmpAbs, andThen_eq_next, Host.Outcome.next.injEq] at h
    obtain ⟨_, _, h₁, _, _, h₂, rfl⟩ := h
    exact C.trans (C.trans (C.fetchByte h₁) (C.memRead h₂)) (C.setPc _ _)
  | jmpInd =>
    simp only [Machine.exec, execJmpInd, andThen_eq_next, Host.Outcome.next.injEq] at h
    obtain ⟨_, _, h₁, _, _, h₂, _, _, h₃, _, _, h₄, rfl⟩ := h
    exact C.trans (C.trans (C.trans (C.trans (C.fetchByte h₁) (C.fetchByte h₂)) (C.memRead h₃))
      (C.memRead h₄)) (C.setPc _ _)
  | jsr =>
    simp only [Machine.exec, execJsr, andThen_eq_next, Host.Outcome.next.injEq] at h
    obtain ⟨_, _, h₁, _, _, h₂, _, _, h₃, _, _, h₄, _, _, h₅, rfl⟩ := h
    exact C.trans (C.trans (C.trans (C.trans (C.trans (C.fetchByte h₁) (C.dummyRead h₂))
      (C.push C.setSp h₃)) (C.push C.setSp h₄)) (C.memRead h₅)) (C.setPc _ _)
  | rts =>
    simp only [Machine.exec, execRts, andThen_eq_next, Host.Outcome.next.injEq] at h
    obtain ⟨_, _, h₁, _, _, h₂, _, _, h₃, _, _, h₄, _, _, h₅, rfl⟩ := h
    exact C.trans (C.trans (C.trans (C.trans (C.trans (C.dummyRead h₁) (C.dummyRead h₂))
      (C.pull C.setSp h₃)) (C.pull C.setSp h₄)) (C.dummyRead h₅)) (C.setPc _ _)
  | brk =>
    simp only [Machine.exec, execBrk, andThen_eq_next] at h
    obtain ⟨_, _, h₁, h₂⟩ := h
    exact C.trans (C.fetchByte h₁) (C.enterHandler C.setSp (fun s => C.setFlags s _) h₂)
  | rti =>
    simp only [Machine.exec, execRti, andThen_eq_next] at h
    obtain ⟨_, _, h₁, h₂⟩ := h
    exact C.trans (C.dummyRead h₁) (C.returnFromHandler C.setSp C.setFlags h₂)
  | nop => exact C.implied (fun s => C.refl s) h
  | pha =>
    simp only [Machine.exec, execPha, andThen_eq_next, Host.Outcome.next.injEq] at h
    obtain ⟨_, _, h₁, _, _, h₂, rfl⟩ := h
    exact C.trans (C.dummyRead h₁) (C.push C.setSp h₂)
  | php =>
    simp only [Machine.exec, execPhp, andThen_eq_next, Host.Outcome.next.injEq] at h
    obtain ⟨_, _, h₁, _, _, h₂, rfl⟩ := h
    exact C.trans (C.dummyRead h₁) (C.push C.setSp h₂)
  | pla =>
    simp only [Machine.exec, execPla, andThen_eq_next, Host.Outcome.next.injEq] at h
    obtain ⟨_, _, h₁, _, _, h₂, _, _, h₃, rfl⟩ := h
    exact C.trans (C.trans (C.trans (C.dummyRead h₁) (C.dummyRead h₂)) (C.pull C.setSp h₃))
      (C.assignA _ _)
  | plp =>
    simp only [Machine.exec, execPlp, andThen_eq_next, Host.Outcome.next.injEq] at h
    obtain ⟨_, _, h₁, _, _, h₂, _, _, h₃, rfl⟩ := h
    exact C.trans (C.trans (C.dummyRead h₁) (C.dummyRead h₂)) (C.pullFlags C.setSp C.setFlags h₃)
  | clc => exact C.implied (C.setFlag _) h
  | sec => exact C.implied (C.setFlag _) h
  | cli => exact C.implied (C.setFlag _) h
  | sei => exact C.implied (C.setFlag _) h
  | cld => exact C.implied (C.setFlag _) h
  | sed => exact C.implied (C.setFlag _) h
  | clv => exact C.implied (C.setFlag _) h

/-- What an opcode byte runs, whatever the host's dispatch table. -/
theorem runOpcode {op : Byte} {a : Addr} {s t : State} (h : runOpcode op a s = .next t) : R s t := by
  have undef : undefinedOpcode op a s = .next t → R s t := by
    intro h
    unfold undefinedOpcode at h
    split at h
    · exact absurd h (by simp)
    · simp only [andThen_eq_next, Host.Outcome.next.injEq] at h
      obtain ⟨_, _, h₁, rfl⟩ := h
      exact C.dummyRead h₁
  unfold Machine.runOpcode at h
  split at h
  · exact absurd h (by simp)
  · exact undef h
  · split at h
    · exact C.exec h
    · exact undef h

theorem runInstruction {s t : State} (h : runInstruction s = .next t) : R s t := by
  simp only [Machine.runInstruction, andThen_eq_next] at h
  obtain ⟨_, _, h₁, h₂⟩ := h
  exact C.trans (C.fetchByte h₁) (C.runOpcode h₂)

end AllClosed

/-! ### The steps a boundary offers -/

/-- Where a step begins: the report of the last step cleared, and a taken NMI dropped. -/
inductive Start (s : State) : State → Prop where
  | nmi (h : s.host.nmi = true) :
      Start s ((s.clearBus.setHost { s.host with nmi := false }).setTook .nmi)
  | irq (h : s.host.nmi = false) (h' : s.host.irq = true) (h'' : s.cpu.flags.i = false) :
      Start s (s.clearBus.setTook .irq)
  | instruction (h : s.host.nmi = false) (h' : s.host.irq = true → s.cpu.flags.i = true) :
      Start s (s.clearBus.setTook .none)

/-- A step that completes begins in one of three ways and then only does what a closed relation allows. -/
theorem step_from_start {s t : State} (h : stepFromBoundary s = .next t) :
    ∃ u, Start s u ∧ ∀ {R : State → State → Prop}, AllClosed R → R u t := by
  change (if s.host.nmi then
      interruptEntry nmiVector ((s.clearBus.setHost { s.host with nmi := false }).setTook .nmi)
    else if s.host.irq && !s.cpu.flags.i then interruptEntry irqVector (s.clearBus.setTook .irq)
    else runInstruction (s.clearBus.setTook .none)) = _ at h
  split at h
  · next hn => exact ⟨_, .nmi hn, fun C => C.interruptEntry C.setSp (fun s => C.setFlags s _) h⟩
  · next hn =>
    split at h
    · next hi =>
      simp only [Bool.and_eq_true, Bool.not_eq_true'] at hi
      exact ⟨_, .irq (by simpa using hn) hi.1 hi.2,
        fun C => C.interruptEntry C.setSp (fun s => C.setFlags s _) h⟩
    · next hi =>
      refine ⟨_, .instruction (by simpa using hn) ?_, fun C => C.runInstruction h⟩
      intro hirq
      simpa [hirq] using hi

/-! ### What every operation keeps -/

/-- `t` comes after `s` within one step: parameters, class and report are as they were, canonical host state
stays canonical, SP stays in page 1, and `cycles` has counted exactly the bus accesses that were added. -/
structure Advance (s t : State) : Prop where
  params : t.params = s.params
  cls : t.cpu.cls = s.cpu.cls
  took : t.took = s.took
  hostWf : s.host.wf = true → t.host.wf = true
  spPage : highByte s.cpu.sp = 0x01 → highByte t.cpu.sp = 0x01
  counts : ∃ es, t.bus = s.bus ++ es ∧ t.cpu.cycles = s.cpu.cycles + es.length

theorem Advance.ofHosted {s t : State} (h : Hosted s t) : Advance s t := by
  obtain ⟨h', w, rfl⟩ := h
  exact ⟨rfl, rfl, rfl, w, id, [], by simp, by simp⟩

theorem advance_trans {s t u : State} (h : Advance s t) (h' : Advance t u) : Advance s u := by
  obtain ⟨es, hb, hc⟩ := h.counts
  obtain ⟨es', hb', hc'⟩ := h'.counts
  exact ⟨h'.params.trans h.params, h'.cls.trans h.cls, h'.took.trans h.took,
    fun w => h'.hostWf (h.hostWf w), fun w => h'.spPage (h.spPage w),
    es ++ es', by simp [hb', hb], by simp [hc', hc]; omega⟩

theorem advance_closed : AllClosed Advance where
  refl s := ⟨rfl, rfl, rfl, id, id, [], by simp, by simp⟩
  trans := advance_trans
  memRead h := by
    obtain ⟨u, hu, rfl⟩ := memRead_next h
    exact advance_trans (.ofHosted hu) ⟨rfl, rfl, rfl, id, id, [_], rfl, rfl⟩
  memWrite h := by
    obtain ⟨u, hu, rfl⟩ := memWrite_next h
    exact advance_trans (.ofHosted hu) ⟨rfl, rfl, rfl, id, id, [_], rfl, rfl⟩
  setPc s v := ⟨rfl, rfl, rfl, id, id, [], by simp, by simp⟩
  setA s v := ⟨rfl, rfl, rfl, id, id, [], by simp, by simp⟩
  setX s v := ⟨rfl, rfl, rfl, id, id, [], by simp, by simp⟩
  setY s v := ⟨rfl, rfl, rfl, id, id, [], by simp, by simp⟩
  setSp s v := ⟨rfl, rfl, rfl, id, fun _ => by simp, [], by simp, by simp⟩
  setFlags s f := ⟨rfl, rfl, rfl, id, id, [], by simp, by simp⟩

/-- Every instruction that completes has advanced the machine. -/
theorem exec_advance {i : Instr} {s t : State} (h : exec i s = .next t) : Advance s t :=
  advance_closed.exec h

end Sys2Proof.Machine
end

