-- ==== Sys2Proof/Laws/PerInstr.lean ====
section
/-! SUPPORT. The family OpcodeRoundTrip: the opcode map of 30_encoding.md R83 gives back each instruction
from the opcode byte its own rule lists. -/

namespace Sys2Proof.Laws.OpcodeRoundTrip

/-- The opcode byte of `i` decodes to `i`. -/
def Statement (i : Instr) : Prop := decodeOpcode (opcodeOf i) = some i

theorem ldaImm : Statement .ldaImm := rfl
theorem ldaZp : Statement .ldaZp := rfl
theorem ldaZpX : Statement .ldaZpX := rfl
theorem ldaAbs : Statement .ldaAbs := rfl
theorem ldaAbsX : Statement .ldaAbsX := rfl
theorem ldaAbsY : Statement .ldaAbsY := rfl
theorem ldaIndX : Statement .ldaIndX := rfl
theorem ldaIndY : Statement .ldaIndY := rfl
theorem ldxImm : Statement .ldxImm := rfl
theorem ldxZp : Statement .ldxZp := rfl
theorem ldxZpY : Statement .ldxZpY := rfl
theorem ldxAbs : Statement .ldxAbs := rfl
theorem ldxAbsY : Statement .ldxAbsY := rfl
theorem ldyImm : Statement .ldyImm := rfl
theorem ldyZp : Statement .ldyZp := rfl
theorem ldyZpX : Statement .ldyZpX := rfl
theorem ldyAbs : Statement .ldyAbs := rfl
theorem ldyAbsX : Statement .ldyAbsX := rfl
theorem staZp : Statement .staZp := rfl
theorem staZpX : Statement .staZpX := rfl
theorem staAbs : Statement .staAbs := rfl
theorem staAbsX : Statement .staAbsX := rfl
theorem staAbsY : Statement .staAbsY := rfl
theorem staIndX : Statement .staIndX := rfl
theorem staIndY : Statement .staIndY := rfl
theorem stxZp : Statement .stxZp := rfl
theorem stxZpY : Statement .stxZpY := rfl
theorem stxAbs : Statement .stxAbs := rfl
theorem styZp : Statement .styZp := rfl
theorem styZpX : Statement .styZpX := rfl
theorem styAbs : Statement .styAbs := rfl
theorem tax : Statement .tax := rfl
theorem tay : Statement .tay := rfl
theorem txa : Statement .txa := rfl
theorem tya : Statement .tya := rfl
theorem tsx : Statement .tsx := rfl
theorem txs : Statement .txs := rfl
theorem adcImm : Statement .adcImm := rfl
theorem adcZp : Statement .adcZp := rfl
theorem adcZpX : Statement .adcZpX := rfl
theorem adcAbs : Statement .adcAbs := rfl
theorem adcAbsX : Statement .adcAbsX := rfl
theorem adcAbsY : Statement .adcAbsY := rfl
theorem adcIndX : Statement .adcIndX := rfl
theorem adcIndY : Statement .adcIndY := rfl
theorem sbcImm : Statement .sbcImm := rfl
theorem sbcZp : Statement .sbcZp := rfl
theorem sbcZpX : Statement .sbcZpX := rfl
theorem sbcAbs : Statement .sbcAbs := rfl
theorem sbcAbsX : Statement .sbcAbsX := rfl
theorem sbcAbsY : Statement .sbcAbsY := rfl
theorem sbcIndX : Statement .sbcIndX := rfl
theorem sbcIndY : Statement .sbcIndY := rfl
theorem cmpImm : Statement .cmpImm := rfl
theorem cmpZp : Statement .cmpZp := rfl
theorem cmpZpX : Statement .cmpZpX := rfl
theorem cmpAbs : Statement .cmpAbs := rfl
theorem cmpAbsX : Statement .cmpAbsX := rfl
theorem cmpAbsY : Statement .cmpAbsY := rfl
theorem cmpIndX : Statement .cmpIndX := rfl
theorem cmpIndY : Statement .cmpIndY := rfl
theorem cpxImm : Statement .cpxImm := rfl
theorem cpxZp : Statement .cpxZp := rfl
theorem cpxAbs : Statement .cpxAbs := rfl
theorem cpyImm : Statement .cpyImm := rfl
theorem cpyZp : Statement .cpyZp := rfl
theorem cpyAbs : Statement .cpyAbs := rfl
theorem incZp : Statement .incZp := rfl
theorem incZpX : Statement .incZpX := rfl
theorem incAbs : Statement .incAbs := rfl
theorem incAbsX : Statement .incAbsX := rfl
theorem decZp : Statement .decZp := rfl
theorem decZpX : Statement .decZpX := rfl
theorem decAbs : Statement .decAbs := rfl
theorem decAbsX : Statement .decAbsX := rfl
theorem inx : Statement .inx := rfl
theorem iny : Statement .iny := rfl
theorem dex : Statement .dex := rfl
theorem dey : Statement .dey := rfl
theorem andImm : Statement .andImm := rfl
theorem andZp : Statement .andZp := rfl
theorem andZpX : Statement .andZpX := rfl
theorem andAbs : Statement .andAbs := rfl
theorem andAbsX : Statement .andAbsX := rfl
theorem andAbsY : Statement .andAbsY := rfl
theorem andIndX : Statement .andIndX := rfl
theorem andIndY : Statement .andIndY := rfl
theorem oraImm : Statement .oraImm := rfl
theorem oraZp : Statement .oraZp := rfl
theorem oraZpX : Statement .oraZpX := rfl
theorem oraAbs : Statement .oraAbs := rfl
theorem oraAbsX : Statement .oraAbsX := rfl
theorem oraAbsY : Statement .oraAbsY := rfl
theorem oraIndX : Statement .oraIndX := rfl
theorem oraIndY : Statement .oraIndY := rfl
theorem eorImm : Statement .eorImm := rfl
theorem eorZp : Statement .eorZp := rfl
theorem eorZpX : Statement .eorZpX := rfl
theorem eorAbs : Statement .eorAbs := rfl
theorem eorAbsX : Statement .eorAbsX := rfl
theorem eorAbsY : Statement .eorAbsY := rfl
theorem eorIndX : Statement .eorIndX := rfl
theorem eorIndY : Statement .eorIndY := rfl
theorem bitZp : Statement .bitZp := rfl
theorem bitAbs : Statement .bitAbs := rfl
theorem aslA : Statement .aslA := rfl
theorem aslZp : Statement .aslZp := rfl
theorem aslZpX : Statement .aslZpX := rfl
theorem aslAbs : Statement .aslAbs := rfl
theorem aslAbsX : Statement .aslAbsX := rfl
theorem lsrA : Statement .lsrA := rfl
theorem lsrZp : Statement .lsrZp := rfl
theorem lsrZpX : Statement .lsrZpX := rfl
theorem lsrAbs : Statement .lsrAbs := rfl
theorem lsrAbsX : Statement .lsrAbsX := rfl
theorem rolA : Statement .rolA := rfl
theorem rolZp : Statement .rolZp := rfl
theorem rolZpX : Statement .rolZpX := rfl
theorem rolAbs : Statement .rolAbs := rfl
theorem rolAbsX : Statement .rolAbsX := rfl
theorem rorA : Statement .rorA := rfl
theorem rorZp : Statement .rorZp := rfl
theorem rorZpX : Statement .rorZpX := rfl
theorem rorAbs : Statement .rorAbs := rfl
theorem rorAbsX : Statement .rorAbsX := rfl
theorem bpl : Statement .bpl := rfl
theorem bmi : Statement .bmi := rfl
theorem bvc : Statement .bvc := rfl
theorem bvs : Statement .bvs := rfl
theorem bcc : Statement .bcc := rfl
theorem bcs : Statement .bcs := rfl
theorem bne : Statement .bne := rfl
theorem beq : Statement .beq := rfl
theorem jmpAbs : Statement .jmpAbs := rfl
theorem jmpInd : Statement .jmpInd := rfl
theorem jsr : Statement .jsr := rfl
theorem rts : Statement .rts := rfl
theorem brk : Statement .brk := rfl
theorem rti : Statement .rti := rfl
theorem nop : Statement .nop := rfl
theorem pha : Statement .pha := rfl
theorem php : Statement .php := rfl
theorem pla : Statement .pla := rfl
theorem plp : Statement .plp := rfl
theorem clc : Statement .clc := rfl
theorem sec : Statement .sec := rfl
theorem cli : Statement .cli := rfl
theorem sei : Statement .sei := rfl
theorem cld : Statement .cld := rfl
theorem sed : Statement .sed := rfl
theorem clv : Statement .clv := rfl

end Sys2Proof.Laws.OpcodeRoundTrip
end

