-- ==== Sys2Proof/Laws/Ready.lean ====
section
/-! SUPPORT. Where every page is mapped and no watch bit is set, each access has a closed form: a read gives
the stored byte, a write stores it, and each counts one cycle. -/

namespace Sys2Proof.Machine

/-- What `Ready` depends on: the maps, the watch tables and the parameters. -/
theorem Ready.congr {s t : State} (h : Ready s) (hr : t.host.readMap = s.host.readMap)
    (hw : t.host.writeMap = s.host.writeMap) (hp : t.host.watchPages = s.host.watchPages)
    (hm : t.host.watchMask = s.host.watchMask) (hq : t.params = s.params) : Ready t := by
  obtain ⟨h1, h2, h3, h4, h5, h6⟩ := h
  constructor
  · intro a; simpa only [watchPresent, pageOf, pageSize, hp, hq] using h1 a
  · intro a; simpa only [readCell, pageOf, pageSize, Option.isSome_map, hr, hq] using h2 a
  · intro a; simpa only [writeCell, pageOf, pageSize, Option.isSome_map, hw, hq] using h3 a
  · intro a; simpa only [maskOf, hm] using h4 a
  · intro a; simpa only [breaksOnRead, maskOf, hm, hq] using h5 a
  · intro a; simpa only [breaksOnWrite, maskOf, hm, hq] using h6 a

theorem Ready.iff_of_eq {s t : State} (hr : t.host.readMap = s.host.readMap)
    (hw : t.host.writeMap = s.host.writeMap) (hp : t.host.watchPages = s.host.watchPages)
    (hm : t.host.watchMask = s.host.watchMask) (hq : t.params = s.params) : Ready t ↔ Ready s :=
  ⟨fun h => h.congr hr.symm hw.symm hp.symm hm.symm hq.symm, fun h => h.congr hr hw hp hm hq⟩

@[simp] theorem ready_tick (s : State) (e : BusAccess) : Ready (s.tick e) ↔ Ready s :=
  Ready.iff_of_eq rfl rfl rfl rfl rfl
@[simp] theorem ready_setPc (s : State) (v : Addr) : Ready (s.setPc v) ↔ Ready s :=
  Ready.iff_of_eq rfl rfl rfl rfl rfl
@[simp] theorem ready_setSp (s : State) (v : Addr) : Ready (s.setSp v) ↔ Ready s :=
  Ready.iff_of_eq rfl rfl rfl rfl rfl
@[simp] theorem ready_setA (s : State) (v : Byte) : Ready (s.setA v) ↔ Ready s :=
  Ready.iff_of_eq rfl rfl rfl rfl rfl
@[simp] theorem ready_setX (s : State) (v : Byte) : Ready (s.setX v) ↔ Ready s :=
  Ready.iff_of_eq rfl rfl rfl rfl rfl
@[simp] theorem ready_setY (s : State) (v : Byte) : Ready (s.setY v) ↔ Ready s :=
  Ready.iff_of_eq rfl rfl rfl rfl rfl
@[simp] theorem ready_setFlags (s : State) (f : Flags) : Ready (s.setFlags f) ↔ Ready s :=
  Ready.iff_of_eq rfl rfl rfl rfl rfl
@[simp] theorem ready_setTook (s : State) (t : Took) : Ready (s.setTook t) ↔ Ready s :=
  Ready.iff_of_eq rfl rfl rfl rfl rfl
@[simp] theorem ready_clearBus (s : State) : Ready s.clearBus ↔ Ready s :=
  Ready.iff_of_eq rfl rfl rfl rfl rfl
@[simp] theorem ready_storeCell (s : State) (k : Nat) (v : Byte) : Ready (storeCell s k v) ↔ Ready s :=
  Ready.iff_of_eq rfl rfl rfl rfl rfl
@[simp] theorem ready_afterBus (s : State) (es : List BusAccess) (pc : Addr) :
    Ready (afterBus es pc s) ↔ Ready s :=
  Ready.iff_of_eq rfl rfl rfl rfl rfl
@[simp] theorem ready_setLines (s : State) (i n : Bool) :
    Ready (s.setHost { s.host with irq := i, nmi := n }) ↔ Ready s :=
  Ready.iff_of_eq rfl rfl rfl rfl rfl
@[simp] theorem ready_dropNmi (s : State) (b : Bool) :
    Ready (s.setHost { s.host with nmi := b }) ↔ Ready s :=
  Ready.iff_of_eq rfl rfl rfl rfl rfl

@[simp] theorem writeCell_storeCell (s : State) (k : Nat) (v : Byte) (a : Addr) :
    writeCell (storeCell s k v) a = writeCell s a := rfl

theorem storeAt_of_cell {s : State} {a : Addr} {k : Nat} (h : writeCell s a = some k) (v : Byte) :
    storeAt a v s = storeCell s k v := by simp [storeAt, h]

@[simp] theorem ready_storeAt (s : State) (a : Addr) (v : Byte) : Ready (storeAt a v s) ↔ Ready s := by
  unfold storeAt; split <;> simp

/-! Reads do not see register, report or cycle updates. -/

@[simp] theorem memAt_tick (s : State) (e : BusAccess) (a : Addr) : memAt (s.tick e) a = memAt s a := rfl
@[simp] theorem memAt_setPc (s : State) (v : Addr) (a : Addr) : memAt (s.setPc v) a = memAt s a := rfl
@[simp] theorem memAt_setSp (s : State) (v : Addr) (a : Addr) : memAt (s.setSp v) a = memAt s a := rfl
@[simp] theorem memAt_setA (s : State) (v : Byte) (a : Addr) : memAt (s.setA v) a = memAt s a := rfl
@[simp] theorem memAt_setX (s : State) (v : Byte) (a : Addr) : memAt (s.setX v) a = memAt s a := rfl
@[simp] theorem memAt_setY (s : State) (v : Byte) (a : Addr) : memAt (s.setY v) a = memAt s a := rfl
@[simp] theorem memAt_setFlags (s : State) (f : Flags) (a : Addr) : memAt (s.setFlags f) a = memAt s a := rfl
@[simp] theorem memAt_setTook (s : State) (t : Took) (a : Addr) : memAt (s.setTook t) a = memAt s a := rfl
@[simp] theorem memAt_clearBus (s : State) (a : Addr) : memAt s.clearBus a = memAt s a := rfl
@[simp] theorem memAt_afterBus (s : State) (es : List BusAccess) (pc a : Addr) :
    memAt (afterBus es pc s) a = memAt s a := rfl
@[simp] theorem memAt_dropNmi (s : State) (b : Bool) (a : Addr) :
    memAt (s.setHost { s.host with nmi := b }) a = memAt s a := rfl

/-! Stores commute with register, report and cycle updates. -/

theorem storeAt_tick (s : State) (e : BusAccess) (a : Addr) (v : Byte) :
    storeAt a v (s.tick e) = (storeAt a v s).tick e := by
  have : writeCell (s.tick e) a = writeCell s a := rfl
  unfold storeAt; rw [this]; split <;> rfl
theorem storeAt_setPc (s : State) (p : Addr) (a : Addr) (v : Byte) :
    storeAt a v (s.setPc p) = (storeAt a v s).setPc p := by
  have : writeCell (s.setPc p) a = writeCell s a := rfl
  unfold storeAt; rw [this]; split <;> rfl
theorem storeAt_setSp (s : State) (p : Addr) (a : Addr) (v : Byte) :
    storeAt a v (s.setSp p) = (storeAt a v s).setSp p := by
  have : writeCell (s.setSp p) a = writeCell s a := rfl
  unfold storeAt; rw [this]; split <;> rfl
theorem storeAt_setFlags (s : State) (f : Flags) (a : Addr) (v : Byte) :
    storeAt a v (s.setFlags f) = (storeAt a v s).setFlags f := by
  have : writeCell (s.setFlags f) a = writeCell s a := rfl
  unfold storeAt; rw [this]; split <;> rfl

@[simp] theorem storeAt_cpu (s : State) (a : Addr) (v : Byte) : (storeAt a v s).cpu = s.cpu := by
  unfold storeAt; split <;> rfl
@[simp] theorem storeAt_params (s : State) (a : Addr) (v : Byte) : (storeAt a v s).params = s.params := by
  unfold storeAt; split <;> rfl
@[simp] theorem storeAt_bus (s : State) (a : Addr) (v : Byte) : (storeAt a v s).bus = s.bus := by
  unfold storeAt; split <;> rfl
@[simp] theorem storeAt_took (s : State) (a : Addr) (v : Byte) : (storeAt a v s).took = s.took := by
  unfold storeAt; split <;> rfl

/-! ### The closed forms -/

theorem peek_eq_memAt {s : State} (h : Ready s) (a : Addr) : peek s a = some (memAt s a) := by
  have := h.readable a
  unfold memAt peek
  cases hc : readCell s a with
  | none => simp [hc] at this
  | some k => rfl

theorem debugRead_ready {s : State} (h : Ready s) (a : Addr) :
    debugRead a s = .next (memAt s a, s) := by
  simp [debugRead, peek_eq_memAt h]

theorem memRead_ready {s : State} (h : Ready s) (a : Addr) :
    memRead a s = .next (memAt s a, s.tick (.read a (memAt s a))) := by
  have h1 := h.present a
  have h2 := h.readable a
  have h4 := h.noIntercept a
  have h5 := h.noBreakRead a
  simp [memRead, readFault, breakpointIf, h1, h4, h5, debugRead_ready h, Option.isNone_eq_false_iff.mpr h2]

theorem memWrite_ready {s : State} (h : Ready s) (a : Addr) (v : Byte) :
    memWrite a v s = .next ((), (storeAt a v s).tick (.write a v)) := by
  have h1 := h.present a
  have h3 := h.writable a
  have h4 := h.noIntercept a
  have h6 := h.noBreakWrite a
  obtain ⟨k, hk⟩ := Option.isSome_iff_exists.mp h3
  simp [memWrite, writeFault, breakpointIf, h1, h4, h6, hk, rawStore, storeAt_of_cell hk]

theorem dummyRead_ready {s : State} (h : Ready s) (a : Addr) :
    dummyRead a s = .next ((), s.tick (.read a (memAt s a))) := by
  simp [dummyRead, memRead_ready h]

theorem fetchByte_ready {s : State} (h : Ready s) :
    fetchByte s = .next (memAt s s.cpu.pc,
      (s.tick (.read s.cpu.pc (memAt s s.cpu.pc))).setPc (s.cpu.pc + 1)) := by
  simp [fetchByte, memRead_ready h]

theorem push_ready {s : State} (h : Ready s) (v : Byte) :
    push v s = .next ((), ((storeAt s.cpu.sp v s).tick (.write s.cpu.sp v)).setSp (spDown s.cpu.sp)) := by
  simp [push, memWrite_ready h]

theorem pull_ready {s : State} (h : Ready s) :
    pull s = .next (memAt s (spUp s.cpu.sp),
      (s.setSp (spUp s.cpu.sp)).tick (.read (spUp s.cpu.sp) (memAt s (spUp s.cpu.sp)))) := by
  simp [pull, memRead_ready ((ready_setSp s (spUp s.cpu.sp)).mpr h)]

/-- Reset leaves a machine that every access can use. -/
theorem ready_reset : Ready State.reset := by
  constructor <;> intro a <;>
    simp [State.reset, watchPresent, readCell, writeCell, maskOf, freshMask, freshWatchPage, freshBlock,
      intercepts, breaksOnRead, breaksOnWrite, bit]

/-! ### Reading back a store -/

/-- A store leaves every cell but its own as it was. -/
theorem cellByte_storeCell_other (s : State) {k k' : Nat} (v : Byte) (h : k' ≠ k) :
    cellByte (storeCell s k v) k' = cellByte s k' := tableGet_set_other _ v h

theorem cellByte_storeCell_same {s : State} (h : Memory.wf s.host.storage = true) (k : Nat) (v : Byte) :
    cellByte (storeCell s k v) k = v := tableGet_set_same h k v

theorem memAt_storeAt_other {s : State} {a b : Addr} (v : Byte)
    (h : readCell s b ≠ writeCell s a) : memAt (storeAt a v s) b = memAt s b := by
  unfold storeAt
  split
  · next k hk =>
    have hr : readCell (storeCell s k v) b = readCell s b := rfl
    simp only [memAt, peek, hr]
    cases hc : readCell s b with
    | none => rfl
    | some j =>
      have : j ≠ k := by rintro rfl; exact h (hc.trans hk.symm)
      simp [cellByte_storeCell_other s v this]
  · rfl

theorem memAt_storeAt_same {s : State} {a b : Addr} {k : Nat} (v : Byte)
    (hw : Memory.wf s.host.storage = true) (ha : writeCell s a = some k) (hb : readCell s b = some k) :
    memAt (storeAt a v s) b = v := by
  rw [storeAt_of_cell ha]
  have hr : readCell (storeCell s k v) b = readCell s b := rfl
  simp [memAt, peek, hr, hb, cellByte_storeCell_same hw]

end Sys2Proof.Machine
end

