-- ==== Sys2Proof/Tests/Slice0.lean ====
section
/-! SUPPORT. The model's own tests. Every expected result comes from spec/: the encodings of the instruction
rules, the vectors V<n> of 95_test_vectors.md, and the Example lines of the rules. Then a witness for each
statement that has hypotheses. -/

open Sys2Proof Sys2Proof.Machine

namespace Sys2Proof.Tests

/-! ### Ill-formed terms are refused -/

theorem test_wf_refuses_an_operand_on_f1 :
    Encoded.wf ⟨.tax, .byte 0x00⟩ = false ∧ Encoded.wf ⟨.aslA, .addr 0x0000⟩ = false := by decide
theorem test_wf_refuses_f2_without_its_byte :
    Encoded.wf ⟨.ldaImm, .none⟩ = false ∧ Encoded.wf ⟨.bne, .addr 0x0000⟩ = false := by decide
theorem test_wf_refuses_f3_without_its_word :
    Encoded.wf ⟨.jsr, .none⟩ = false ∧ Encoded.wf ⟨.staAbs, .byte 0x00⟩ = false := by decide

/-! ### Decoding: each opcode byte from the Encoding of its own rule -/

/-- Each word decodes to its instruction, with no byte left over. -/
abbrev decodesAll (l : List (List Byte × Encoded)) : Bool :=
  l.all fun p => decide (decode p.1 = .ok (p.2, []))

theorem test_decode_loads :
  decodesAll
    [([0xA9, 0x80], ⟨.ldaImm, .byte 0x80⟩), ([0xA5, 0x80], ⟨.ldaZp, .byte 0x80⟩),
      ([0xB5, 0x80], ⟨.ldaZpX, .byte 0x80⟩), ([0xAD, 0x34, 0x12], ⟨.ldaAbs, .addr 0x1234⟩),
      ([0xBD, 0x34, 0x12], ⟨.ldaAbsX, .addr 0x1234⟩), ([0xB9, 0x34, 0x12], ⟨.ldaAbsY, .addr 0x1234⟩),
      ([0xA1, 0x80], ⟨.ldaIndX, .byte 0x80⟩), ([0xB1, 0x80], ⟨.ldaIndY, .byte 0x80⟩),
      ([0xA2, 0x80], ⟨.ldxImm, .byte 0x80⟩), ([0xA6, 0x80], ⟨.ldxZp, .byte 0x80⟩),
      ([0xB6, 0x80], ⟨.ldxZpY, .byte 0x80⟩), ([0xAE, 0x34, 0x12], ⟨.ldxAbs, .addr 0x1234⟩),
      ([0xBE, 0x34, 0x12], ⟨.ldxAbsY, .addr 0x1234⟩), ([0xA0, 0x80], ⟨.ldyImm, .byte 0x80⟩),
      ([0xA4, 0x80], ⟨.ldyZp, .byte 0x80⟩), ([0xB4, 0x80], ⟨.ldyZpX, .byte 0x80⟩),
      ([0xAC, 0x34, 0x12], ⟨.ldyAbs, .addr 0x1234⟩), ([0xBC, 0x34, 0x12], ⟨.ldyAbsX, .addr 0x1234⟩)] = true := by decide

theorem test_decode_stores :
  decodesAll
    [([0x85, 0x80], ⟨.staZp, .byte 0x80⟩), ([0x95, 0x80], ⟨.staZpX, .byte 0x80⟩),
      ([0x8D, 0x34, 0x12], ⟨.staAbs, .addr 0x1234⟩), ([0x9D, 0x34, 0x12], ⟨.staAbsX, .addr 0x1234⟩),
      ([0x99, 0x34, 0x12], ⟨.staAbsY, .addr 0x1234⟩), ([0x81, 0x80], ⟨.staIndX, .byte 0x80⟩),
      ([0x91, 0x80], ⟨.staIndY, .byte 0x80⟩), ([0x86, 0x80], ⟨.stxZp, .byte 0x80⟩),
      ([0x96, 0x80], ⟨.stxZpY, .byte 0x80⟩), ([0x8E, 0x34, 0x12], ⟨.stxAbs, .addr 0x1234⟩),
      ([0x84, 0x80], ⟨.styZp, .byte 0x80⟩), ([0x94, 0x80], ⟨.styZpX, .byte 0x80⟩),
      ([0x8C, 0x34, 0x12], ⟨.styAbs, .addr 0x1234⟩)] = true := by decide

theorem test_decode_transfers :
  decodesAll
    [([0xAA], ⟨.tax, .none⟩), ([0xA8], ⟨.tay, .none⟩), ([0x8A], ⟨.txa, .none⟩), ([0x98], ⟨.tya, .none⟩),
      ([0xBA], ⟨.tsx, .none⟩), ([0x9A], ⟨.txs, .none⟩)] = true := by decide

theorem test_decode_adc_sbc :
  decodesAll
    [([0x69, 0x80], ⟨.adcImm, .byte 0x80⟩), ([0x65, 0x80], ⟨.adcZp, .byte 0x80⟩),
      ([0x75, 0x80], ⟨.adcZpX, .byte 0x80⟩), ([0x6D, 0x34, 0x12], ⟨.adcAbs, .addr 0x1234⟩),
      ([0x7D, 0x34, 0x12], ⟨.adcAbsX, .addr 0x1234⟩), ([0x79, 0x34, 0x12], ⟨.adcAbsY, .addr 0x1234⟩),
      ([0x61, 0x80], ⟨.adcIndX, .byte 0x80⟩), ([0x71, 0x80], ⟨.adcIndY, .byte 0x80⟩),
      ([0xE9, 0x80], ⟨.sbcImm, .byte 0x80⟩), ([0xE5, 0x80], ⟨.sbcZp, .byte 0x80⟩),
      ([0xF5, 0x80], ⟨.sbcZpX, .byte 0x80⟩), ([0xED, 0x34, 0x12], ⟨.sbcAbs, .addr 0x1234⟩),
      ([0xFD, 0x34, 0x12], ⟨.sbcAbsX, .addr 0x1234⟩), ([0xF9, 0x34, 0x12], ⟨.sbcAbsY, .addr 0x1234⟩),
      ([0xE1, 0x80], ⟨.sbcIndX, .byte 0x80⟩), ([0xF1, 0x80], ⟨.sbcIndY, .byte 0x80⟩)] = true := by decide

theorem test_decode_compares :
  decodesAll
    [([0xC9, 0x80], ⟨.cmpImm, .byte 0x80⟩), ([0xC5, 0x80], ⟨.cmpZp, .byte 0x80⟩),
      ([0xD5, 0x80], ⟨.cmpZpX, .byte 0x80⟩), ([0xCD, 0x34, 0x12], ⟨.cmpAbs, .addr 0x1234⟩),
      ([0xDD, 0x34, 0x12], ⟨.cmpAbsX, .addr 0x1234⟩), ([0xD9, 0x34, 0x12], ⟨.cmpAbsY, .addr 0x1234⟩),
      ([0xC1, 0x80], ⟨.cmpIndX, .byte 0x80⟩), ([0xD1, 0x80], ⟨.cmpIndY, .byte 0x80⟩),
      ([0xE0, 0x80], ⟨.cpxImm, .byte 0x80⟩), ([0xE4, 0x80], ⟨.cpxZp, .byte 0x80⟩),
      ([0xEC, 0x34, 0x12], ⟨.cpxAbs, .addr 0x1234⟩), ([0xC0, 0x80], ⟨.cpyImm, .byte 0x80⟩),
      ([0xC4, 0x80], ⟨.cpyZp, .byte 0x80⟩), ([0xCC, 0x34, 0x12], ⟨.cpyAbs, .addr 0x1234⟩)] = true := by decide

theorem test_decode_increments :
  decodesAll
    [([0xE6, 0x80], ⟨.incZp, .byte 0x80⟩), ([0xF6, 0x80], ⟨.incZpX, .byte 0x80⟩),
      ([0xEE, 0x34, 0x12], ⟨.incAbs, .addr 0x1234⟩), ([0xFE, 0x34, 0x12], ⟨.incAbsX, .addr 0x1234⟩),
      ([0xC6, 0x80], ⟨.decZp, .byte 0x80⟩), ([0xD6, 0x80], ⟨.decZpX, .byte 0x80⟩),
      ([0xCE, 0x34, 0x12], ⟨.decAbs, .addr 0x1234⟩), ([0xDE, 0x34, 0x12], ⟨.decAbsX, .addr 0x1234⟩),
      ([0xE8], ⟨.inx, .none⟩), ([0xC8], ⟨.iny, .none⟩), ([0xCA], ⟨.dex, .none⟩), ([0x88], ⟨.dey, .none⟩)] = true := by decide

theorem test_decode_logic :
  decodesAll
    [([0x29, 0x80], ⟨.andImm, .byte 0x80⟩), ([0x25, 0x80], ⟨.andZp, .byte 0x80⟩),
      ([0x35, 0x80], ⟨.andZpX, .byte 0x80⟩), ([0x2D, 0x34, 0x12], ⟨.andAbs, .addr 0x1234⟩),
      ([0x3D, 0x34, 0x12], ⟨.andAbsX, .addr 0x1234⟩), ([0x39, 0x34, 0x12], ⟨.andAbsY, .addr 0x1234⟩),
      ([0x21, 0x80], ⟨.andIndX, .byte 0x80⟩), ([0x31, 0x80], ⟨.andIndY, .byte 0x80⟩),
      ([0x09, 0x80], ⟨.oraImm, .byte 0x80⟩), ([0x05, 0x80], ⟨.oraZp, .byte 0x80⟩),
      ([0x15, 0x80], ⟨.oraZpX, .byte 0x80⟩), ([0x0D, 0x34, 0x12], ⟨.oraAbs, .addr 0x1234⟩),
      ([0x1D, 0x34, 0x12], ⟨.oraAbsX, .addr 0x1234⟩), ([0x19, 0x34, 0x12], ⟨.oraAbsY, .addr 0x1234⟩),
      ([0x01, 0x80], ⟨.oraIndX, .byte 0x80⟩), ([0x11, 0x80], ⟨.oraIndY, .byte 0x80⟩),
      ([0x49, 0x80], ⟨.eorImm, .byte 0x80⟩), ([0x45, 0x80], ⟨.eorZp, .byte 0x80⟩),
      ([0x55, 0x80], ⟨.eorZpX, .byte 0x80⟩), ([0x4D, 0x34, 0x12], ⟨.eorAbs, .addr 0x1234⟩),
      ([0x5D, 0x34, 0x12], ⟨.eorAbsX, .addr 0x1234⟩), ([0x59, 0x34, 0x12], ⟨.eorAbsY, .addr 0x1234⟩),
      ([0x41, 0x80], ⟨.eorIndX, .byte 0x80⟩), ([0x51, 0x80], ⟨.eorIndY, .byte 0x80⟩),
      ([0x24, 0x80], ⟨.bitZp, .byte 0x80⟩), ([0x2C, 0x34, 0x12], ⟨.bitAbs, .addr 0x1234⟩)] = true := by decide

theorem test_decode_shifts :
  decodesAll
    [([0x0A], ⟨.aslA, .none⟩), ([0x06, 0x80], ⟨.aslZp, .byte 0x80⟩), ([0x16, 0x80], ⟨.aslZpX, .byte 0x80⟩),
      ([0x0E, 0x34, 0x12], ⟨.aslAbs, .addr 0x1234⟩), ([0x1E, 0x34, 0x12], ⟨.aslAbsX, .addr 0x1234⟩),
      ([0x4A], ⟨.lsrA, .none⟩), ([0x46, 0x80], ⟨.lsrZp, .byte 0x80⟩),
      ([0x56, 0x80], ⟨.lsrZpX, .byte 0x80⟩), ([0x4E, 0x34, 0x12], ⟨.lsrAbs, .addr 0x1234⟩),
      ([0x5E, 0x34, 0x12], ⟨.lsrAbsX, .addr 0x1234⟩), ([0x2A], ⟨.rolA, .none⟩),
      ([0x26, 0x80], ⟨.rolZp, .byte 0x80⟩), ([0x36, 0x80], ⟨.rolZpX, .byte 0x80⟩),
      ([0x2E, 0x34, 0x12], ⟨.rolAbs, .addr 0x1234⟩), ([0x3E, 0x34, 0x12], ⟨.rolAbsX, .addr 0x1234⟩),
      ([0x6A], ⟨.rorA, .none⟩), ([0x66, 0x80], ⟨.rorZp, .byte 0x80⟩),
      ([0x76, 0x80], ⟨.rorZpX, .byte 0x80⟩), ([0x6E, 0x34, 0x12], ⟨.rorAbs, .addr 0x1234⟩),
      ([0x7E, 0x34, 0x12], ⟨.rorAbsX, .addr 0x1234⟩)] = true := by decide

theorem test_decode_branches :
  decodesAll
    [([0x10, 0x80], ⟨.bpl, .byte 0x80⟩), ([0x30, 0x80], ⟨.bmi, .byte 0x80⟩),
      ([0x50, 0x80], ⟨.bvc, .byte 0x80⟩), ([0x70, 0x80], ⟨.bvs, .byte 0x80⟩),
      ([0x90, 0x80], ⟨.bcc, .byte 0x80⟩), ([0xB0, 0x80], ⟨.bcs, .byte 0x80⟩),
      ([0xD0, 0x80], ⟨.bne, .byte 0x80⟩), ([0xF0, 0x80], ⟨.beq, .byte 0x80⟩)] = true := by decide

theorem test_decode_control :
  decodesAll
    [([0x4C, 0x34, 0x12], ⟨.jmpAbs, .addr 0x1234⟩), ([0x6C, 0x34, 0x12], ⟨.jmpInd, .addr 0x1234⟩),
      ([0x20, 0x34, 0x12], ⟨.jsr, .addr 0x1234⟩), ([0x60], ⟨.rts, .none⟩), ([0x00], ⟨.brk, .none⟩),
      ([0x40], ⟨.rti, .none⟩), ([0xEA], ⟨.nop, .none⟩)] = true := by decide

theorem test_decode_stack_flags :
  decodesAll
    [([0x48], ⟨.pha, .none⟩), ([0x08], ⟨.php, .none⟩), ([0x68], ⟨.pla, .none⟩), ([0x28], ⟨.plp, .none⟩),
      ([0x18], ⟨.clc, .none⟩), ([0x38], ⟨.sec, .none⟩), ([0x58], ⟨.cli, .none⟩), ([0x78], ⟨.sei, .none⟩),
      ([0xD8], ⟨.cld, .none⟩), ([0xF8], ⟨.sed, .none⟩), ([0xB8], ⟨.clv, .none⟩)] = true := by decide

/-- R84: the first, the last and a middle byte of its list. -/
theorem test_decode_undefined :
    decode [0x02, 0x00] = .error (.undefinedOpcode 0x02) ∧ decode [0x89] = .error (.undefinedOpcode 0x89) ∧
      decode [0xFF] = .error (.undefinedOpcode 0xFF) := by decide
theorem test_decode_truncated :
    decode [] = .error .truncated ∧ decode [0xA9] = .error .truncated ∧
      decode [0x4C, 0x00] = .error .truncated := by decide
theorem test_decode_table_word :
    decodeTableWord 24 0x02008D = some .staAbs ∧ decodeTableWord 8 0x6C = some .jmpInd ∧
      decodeTableWord 8 0x02 = none := by decide

/-! ### One step -/

/-- The flags in the order N V D I Z C of the vectors. -/
def flags (n v d i z c : Bool) : Flags := { n := n, v := v, d := d, i := i, z := z, c := c }

/-- The start that 95_test_vectors.md names, at 0x0300. -/
def boot : Cpu :=
  { a := 0x00, x := 0x00, y := 0x00, pc := 0x0300, sp := 0x01FD
    flags := flags false false false true false false, cycles := 0, cls := .legacy }

/-- That start with every table as after reset. -/
def boot_ : State := { State.reset with cpu := boot }

/-- `cpu` with the listed bytes in memory. -/
def start (cpu : Cpu) (bytes : List (Nat × Byte)) : State :=
  bytes.foldl (fun s p => hostEdit (.storeCell p.1 p.2) s) { State.reset with cpu := cpu }

def withParams (p : Params) (s : State) : State := { s with params := p }

/-- The step completes in a state that `check` accepts. -/
abbrev ends (s : State) (check : State → Bool) : Prop :=
  (match step s with
    | .next t => check t
    | .fault _ => false
    | .refused _ => false) = true

/-- The step faults, and carries a state that `check` accepts. -/
abbrev faults (s : State) (check : State → Bool) : Prop :=
  (match step s with
    | .next _ => false
    | .fault f => check f.state
    | .refused _ => false) = true

/-- `step` runs the placed word as the first instruction after reset, whatever lines and table stood in the
way. -/
theorem test_with_fetch_word :
    ends (State.reset.withFetchWord 24 0x1234AD) (fun t => t.cpu.pc == 0x0003 && t.took == .none) ∧
    ends ((withInputs ⟨true, true⟩ (start { boot with flags := flags false false false false false false }
      [])).withFetchWord 16 0x42A9) (fun t => t.cpu.a == 0x42 && t.took == .none) := by decide

/-- V1 of 95_test_vectors.md. -/
theorem test_v1 :
    ends (start { boot with a := 0x55, flags := flags true false false true false false }
        [(0x0300, 0xA9), (0x0301, 0x00)]) fun t =>
      t.cpu.a == 0x00 && t.cpu.pc == 0x0302 && t.cpu.flags == flags false false false true true false &&
      t.cpu.cycles == 2 := by decide

/-- V2 of 95_test_vectors.md. -/
theorem test_v2 :
    ends (start { boot with flags := flags false false false true true false }
        [(0x0300, 0xA9), (0x0301, 0x80)]) fun t =>
      t.cpu.a == 0x80 && t.cpu.pc == 0x0302 && t.cpu.flags == flags true false false true false false &&
      t.cpu.cycles == 2 := by decide

/-- V3 of 95_test_vectors.md. -/
theorem test_v3 :
    ends (start { boot with x := 0xF5 }
        [(0x0300, 0xB5), (0x0301, 0x10), (0x0005, 0x3C), (0x0105, 0x99)]) fun t =>
      t.cpu.a == 0x3C && t.cpu.pc == 0x0302 && t.cpu.flags == flags false false false true false false &&
      t.cpu.cycles == 4 &&
      t.bus == [.read 0x0300 0xB5, .read 0x0301 0x10, .read 0x0010 0x00, .read 0x0005 0x3C] := by decide

/-- V5 of 95_test_vectors.md. -/
theorem test_v5 :
    ends (start { boot with x := 0x01 }
        [(0x0300, 0xBD), (0x0301, 0xFF), (0x0302, 0x12), (0x1200, 0x11), (0x1300, 0x77)]) fun t =>
      t.cpu.a == 0x77 && t.cpu.pc == 0x0303 && t.cpu.flags == flags false false false true false false &&
      t.cpu.cycles == 5 &&
      t.bus == [.read 0x0300 0xBD, .read 0x0301 0xFF, .read 0x0302 0x12, .read 0x1200 0x11, .read 0x1300 0x77] := by decide

/-- V6 of 95_test_vectors.md. -/
theorem test_v6 :
    ends (start { boot with cls := .extended, x := 0x01 }
        [(0x0300, 0xBD), (0x0301, 0xFF), (0x0302, 0x12), (0x1200, 0x11), (0x1300, 0x77)]) fun t =>
      t.cpu.a == 0x77 && t.cpu.pc == 0x0303 && t.cpu.flags == flags false false false true false false &&
      t.cpu.cycles == 5 &&
      t.bus == [.read 0x0300 0xBD, .read 0x0301 0xFF, .read 0x0302 0x12, .read 0x0302 0x12, .read 0x1300 0x77] := by decide

/-- V7 of 95_test_vectors.md. -/
theorem test_v7 :
    ends (start { boot with y := 0x01 }
        [(0x0300, 0xB9), (0x0301, 0xFF), (0x0302, 0xFF), (0x0000, 0x42), (0xFF00, 0xEE)]) fun t =>
      t.cpu.a == 0x42 && t.cpu.pc == 0x0303 && t.cpu.flags == flags false false false true false false &&
      t.cpu.cycles == 5 := by decide

/-- V8 of 95_test_vectors.md. -/
theorem test_v8 :
    ends (start boot
        [(0x0300, 0xA1), (0x0301, 0xFF), (0x00FF, 0x34), (0x0000, 0x12), (0x0100, 0x56),
        (0x1234, 0xAB)]) fun t =>
      t.cpu.a == 0xAB && t.cpu.pc == 0x0302 && t.cpu.flags == flags true false false true false false &&
      t.cpu.cycles == 6 &&
      t.bus == [.read 0x0300 0xA1, .read 0x0301 0xFF, .read 0x00FF 0x34, .read 0x00FF 0x34, .read 0x0000 0x12, .read 0x1234 0xAB] := by decide

/-- V9 of 95_test_vectors.md. -/
theorem test_v9 :
    ends (start { boot with x := 0x05 }
        [(0x0300, 0xA1), (0x0301, 0x40), (0x0045, 0x00), (0x0046, 0x20), (0x2000, 0x5A)]) fun t =>
      t.cpu.a == 0x5A && t.cpu.pc == 0x0302 && t.cpu.flags == flags false false false true false false &&
      t.cpu.cycles == 6 := by decide

/-- V10 of 95_test_vectors.md. -/
theorem test_v10 :
    ends (start { boot with y := 0x10 }
        [(0x0300, 0xB1), (0x0301, 0x20), (0x0020, 0xF8), (0x0021, 0x40), (0x4108, 0x99)]) fun t =>
      t.cpu.a == 0x99 && t.cpu.pc == 0x0302 && t.cpu.flags == flags true false false true false false &&
      t.cpu.cycles == 6 &&
      t.bus == [.read 0x0300 0xB1, .read 0x0301 0x20, .read 0x0020 0xF8, .read 0x0021 0x40, .read 0x4008 0x00, .read 0x4108 0x99] := by decide

/-- V11 of 95_test_vectors.md. -/
theorem test_v11 :
    ends (start { boot with cls := .extended, y := 0x10 }
        [(0x0300, 0xB1), (0x0301, 0x20), (0x0020, 0xF8), (0x0021, 0x40), (0x4108, 0x99)]) fun t =>
      t.cpu.a == 0x99 && t.cpu.pc == 0x0302 && t.cpu.flags == flags true false false true false false &&
      t.cpu.cycles == 6 &&
      t.bus == [.read 0x0300 0xB1, .read 0x0301 0x20, .read 0x0020 0xF8, .read 0x0021 0x40, .read 0x0301 0x20, .read 0x4108 0x99] := by decide

/-- V12 of 95_test_vectors.md. -/
theorem test_v12 :
    ends (start { boot with a := 0xC3, x := 0x05 }
        [(0x0300, 0x9D), (0x0301, 0x00), (0x0302, 0x12)]) fun t =>
      t.cpu.pc == 0x0303 && t.cpu.flags == flags false false false true false false && t.cpu.cycles == 5 &&
      memAt t 0x1205 == 0xC3 &&
      t.bus == [.read 0x0300 0x9D, .read 0x0301 0x00, .read 0x0302 0x12, .read 0x1205 0x00, .write 0x1205 0xC3] := by decide

/-- V13 of 95_test_vectors.md. -/
theorem test_v13 :
    ends (start { boot with cls := .extended, a := 0xC3, x := 0x01 }
        [(0x0300, 0x9D), (0x0301, 0xFF), (0x0302, 0x12)]) fun t =>
      t.cpu.pc == 0x0303 && t.cpu.flags == flags false false false true false false && t.cpu.cycles == 5 &&
      memAt t 0x1300 == 0xC3 &&
      t.bus == [.read 0x0300 0x9D, .read 0x0301 0xFF, .read 0x0302 0x12, .read 0x0302 0x12, .write 0x1300 0xC3] := by decide

/-- V14 of 95_test_vectors.md. -/
theorem test_v14 :
    ends (start { boot with a := 0x00, y := 0x02 }
        [(0x0300, 0x91), (0x0301, 0x20), (0x0020, 0x00), (0x0021, 0x44)]) fun t =>
      t.cpu.pc == 0x0302 && t.cpu.flags == flags false false false true false false && t.cpu.cycles == 6 &&
      memAt t 0x4402 == 0x00 &&
      t.bus == [.read 0x0300 0x91, .read 0x0301 0x20, .read 0x0020 0x00, .read 0x0021 0x44, .read 0x4402 0x00, .write 0x4402 0x00] := by decide

/-- V19 of 95_test_vectors.md. -/
theorem test_v19 :
    ends (start boot [(0x0300, 0xBA)]) fun t =>
      t.cpu.x == 0xFD && t.cpu.pc == 0x0301 && t.cpu.flags == flags true false false true false false &&
      t.cpu.cycles == 2 := by decide

/-- V20 of 95_test_vectors.md. -/
theorem test_v20 :
    ends (start { boot with x := 0x00, flags := flags true false false true false false }
        [(0x0300, 0x9A)]) fun t =>
      t.cpu.sp == 0x0100 && t.cpu.pc == 0x0301 && t.cpu.flags == flags true false false true false false &&
      t.cpu.cycles == 2 := by decide

/-- V21 of 95_test_vectors.md. -/
theorem test_v21 :
    ends (start { boot with a := 0x7F } [(0x0300, 0x69), (0x0301, 0x01)]) fun t =>
      t.cpu.a == 0x80 && t.cpu.pc == 0x0302 && t.cpu.flags == flags true true false true false false &&
      t.cpu.cycles == 2 := by decide

/-- V27 of 95_test_vectors.md. -/
theorem test_v27 :
    ends (withParams { adcDecCarry := .binary } (start { boot with a := 0x50, flags := flags false false true true false false }
        [(0x0300, 0x69), (0x0301, 0x50)])) fun t =>
      t.cpu.a == 0x00 && t.cpu.pc == 0x0302 && t.cpu.flags == flags true true true true false false &&
      t.cpu.cycles == 2 := by decide

/-- V28 of 95_test_vectors.md. -/
theorem test_v28 :
    ends (start { boot with a := 0x99, flags := flags false false true true false false }
        [(0x0300, 0x69), (0x0301, 0x01)]) fun t =>
      t.cpu.a == 0x00 && t.cpu.pc == 0x0302 && t.cpu.flags == flags true false true true false true &&
      t.cpu.cycles == 2 := by decide

/-- V32 of 95_test_vectors.md. -/
theorem test_v32 :
    ends (start { boot with a := 0x80, flags := flags false false false true false true }
        [(0x0300, 0xE9), (0x0301, 0x01)]) fun t =>
      t.cpu.a == 0x7F && t.cpu.pc == 0x0302 && t.cpu.flags == flags false true false true false true &&
      t.cpu.cycles == 2 := by decide

/-- V35 of 95_test_vectors.md. -/
theorem test_v35 :
    ends (start { boot with a := 0x00, flags := flags false false true true false true }
        [(0x0300, 0xE9), (0x0301, 0x01)]) fun t =>
      t.cpu.a == 0x99 && t.cpu.pc == 0x0302 && t.cpu.flags == flags true false true true false false &&
      t.cpu.cycles == 2 := by decide

/-- V36 of 95_test_vectors.md. -/
theorem test_v36 :
    ends (start { boot with a := 0x10 } [(0x0300, 0xC9), (0x0301, 0x10)]) fun t =>
      t.cpu.pc == 0x0302 && t.cpu.flags == flags false false false true true true && t.cpu.cycles == 2 := by decide

/-- V37 of 95_test_vectors.md. -/
theorem test_v37 :
    ends (start { boot with x := 0x05 } [(0x0300, 0xE0), (0x0301, 0x10)]) fun t =>
      t.cpu.pc == 0x0302 && t.cpu.flags == flags true false false true false false && t.cpu.cycles == 2 := by decide

/-- V38 of 95_test_vectors.md. -/
theorem test_v38 :
    ends (start { boot with a := 0x00, flags := flags false true false true false false }
        [(0x0300, 0xC9), (0x0301, 0xFF)]) fun t =>
      t.cpu.pc == 0x0302 && t.cpu.flags == flags false true false true false false && t.cpu.cycles == 2 := by decide

/-- V39 of 95_test_vectors.md. -/
theorem test_v39 :
    ends (start { boot with y := 0xFF } [(0x0300, 0xC0), (0x0301, 0x00)]) fun t =>
      t.cpu.pc == 0x0302 && t.cpu.flags == flags true false false true false true && t.cpu.cycles == 2 := by decide

/-- V40 of 95_test_vectors.md. -/
theorem test_v40 :
    ends (start boot [(0x0300, 0xE6), (0x0301, 0x10), (0x0010, 0x7F)]) fun t =>
      t.cpu.pc == 0x0302 && t.cpu.flags == flags true false false true false false && t.cpu.cycles == 5 &&
      memAt t 0x0010 == 0x80 &&
      t.bus == [.read 0x0300 0xE6, .read 0x0301 0x10, .read 0x0010 0x7F, .write 0x0010 0x7F, .write 0x0010 0x80] := by decide

/-- V41 of 95_test_vectors.md. -/
theorem test_v41 :
    ends (start { boot with pc := 0x0400, x := 0x01 }
        [(0x0400, 0xDE), (0x0401, 0xFF), (0x0402, 0x02), (0x0300, 0x01)]) fun t =>
      t.cpu.pc == 0x0403 && t.cpu.flags == flags false false false true true false && t.cpu.cycles == 7 &&
      memAt t 0x0300 == 0x00 &&
      t.bus == [.read 0x0400 0xDE, .read 0x0401 0xFF, .read 0x0402 0x02, .read 0x0200 0x00, .read 0x0300 0x01, .write 0x0300 0x01, .write 0x0300 0x00] := by decide

/-- V43 of 95_test_vectors.md. -/
theorem test_v43 :
    ends (start { boot with a := 0xF0 } [(0x0300, 0x29), (0x0301, 0x0F)]) fun t =>
      t.cpu.a == 0x00 && t.cpu.pc == 0x0302 && t.cpu.flags == flags false false false true true false &&
      t.cpu.cycles == 2 := by decide

/-- V44 of 95_test_vectors.md. -/
theorem test_v44 :
    ends (start { boot with a := 0x01 } [(0x0300, 0x09), (0x0301, 0x80)]) fun t =>
      t.cpu.a == 0x81 && t.cpu.pc == 0x0302 && t.cpu.flags == flags true false false true false false &&
      t.cpu.cycles == 2 := by decide

/-- V45 of 95_test_vectors.md. -/
theorem test_v45 :
    ends (start { boot with a := 0xFF } [(0x0300, 0x49), (0x0301, 0xFF)]) fun t =>
      t.cpu.a == 0x00 && t.cpu.pc == 0x0302 && t.cpu.flags == flags false false false true true false &&
      t.cpu.cycles == 2 := by decide

/-- V46 of 95_test_vectors.md. -/
theorem test_v46 :
    ends (start { boot with a := 0x01 } [(0x0300, 0x24), (0x0301, 0x10), (0x0010, 0xC0)]) fun t =>
      t.cpu.pc == 0x0302 && t.cpu.flags == flags true true false true true false && t.cpu.cycles == 3 := by decide

/-- V47 of 95_test_vectors.md. -/
theorem test_v47 :
    ends (start { boot with a := 0x81 } [(0x0300, 0x0A)]) fun t =>
      t.cpu.a == 0x02 && t.cpu.pc == 0x0301 && t.cpu.flags == flags false false false true false true &&
      t.cpu.cycles == 2 := by decide

/-- V48 of 95_test_vectors.md. -/
theorem test_v48 :
    ends (start { boot with a := 0x01, flags := flags true false false true false false }
        [(0x0300, 0x4A)]) fun t =>
      t.cpu.a == 0x00 && t.cpu.pc == 0x0301 && t.cpu.flags == flags false false false true true true &&
      t.cpu.cycles == 2 := by decide

/-- V49 of 95_test_vectors.md. -/
theorem test_v49 :
    ends (start { boot with a := 0x80, flags := flags false false false true false true }
        [(0x0300, 0x2A)]) fun t =>
      t.cpu.a == 0x01 && t.cpu.pc == 0x0301 && t.cpu.flags == flags false false false true false true &&
      t.cpu.cycles == 2 := by decide

/-- V50 of 95_test_vectors.md. -/
theorem test_v50 :
    ends (start { boot with a := 0x01, flags := flags false false false true false true }
        [(0x0300, 0x6A)]) fun t =>
      t.cpu.a == 0x80 && t.cpu.pc == 0x0301 && t.cpu.flags == flags true false false true false true &&
      t.cpu.cycles == 2 := by decide

/-- V51 of 95_test_vectors.md. -/
theorem test_v51 :
    ends (start boot [(0x0300, 0x06), (0x0301, 0x10), (0x0010, 0x40)]) fun t =>
      t.cpu.pc == 0x0302 && t.cpu.flags == flags true false false true false false && t.cpu.cycles == 5 &&
      memAt t 0x0010 == 0x80 := by decide

/-- V52 of 95_test_vectors.md. -/
theorem test_v52 :
    ends (start { boot with flags := flags false false false true false true }
        [(0x0300, 0x7E), (0x0301, 0x34), (0x0302, 0x12), (0x1234, 0x02)]) fun t =>
      t.cpu.pc == 0x0303 && t.cpu.flags == flags true false false true false false && t.cpu.cycles == 7 &&
      memAt t 0x1234 == 0x81 &&
      t.bus == [.read 0x0300 0x7E, .read 0x0301 0x34, .read 0x0302 0x12, .read 0x1234 0x02, .read 0x1234 0x02, .write 0x1234 0x02, .write 0x1234 0x81] := by decide

/-- V53 of 95_test_vectors.md. -/
theorem test_v53 :
    ends (start { boot with x := 0xF8 } [(0x0300, 0x56), (0x0301, 0x10), (0x0008, 0x03)]) fun t =>
      t.cpu.pc == 0x0302 && t.cpu.flags == flags false false false true false true && t.cpu.cycles == 6 &&
      memAt t 0x0008 == 0x01 := by decide

/-- V54 of 95_test_vectors.md. -/
theorem test_v54 :
    ends (start { boot with flags := flags false false false true true false }
        [(0x0300, 0xD0), (0x0301, 0x10)]) fun t =>
      t.cpu.pc == 0x0302 && t.cpu.flags == flags false false false true true false && t.cpu.cycles == 2 := by decide

/-- V55 of 95_test_vectors.md. -/
theorem test_v55 :
    ends (start boot [(0x0300, 0xD0), (0x0301, 0x10)]) fun t =>
      t.cpu.pc == 0x0312 && t.cpu.flags == flags false false false true false false && t.cpu.cycles == 3 := by decide

/-- V56 of 95_test_vectors.md. -/
theorem test_v56 :
    ends (start { boot with pc := 0x03F0, flags := flags true false false true false false }
        [(0x03F0, 0x30), (0x03F1, 0x20)]) fun t =>
      t.cpu.pc == 0x0412 && t.cpu.flags == flags true false false true false false && t.cpu.cycles == 4 &&
      t.bus == [.read 0x03F0 0x30, .read 0x03F1 0x20, .read 0x03F2 0x00, .read 0x0312 0x00] := by decide

/-- V57 of 95_test_vectors.md. -/
theorem test_v57 :
    ends (start { boot with pc := 0x0310 } [(0x0310, 0x90), (0x0311, 0x80)]) fun t =>
      t.cpu.pc == 0x0292 && t.cpu.flags == flags false false false true false false && t.cpu.cycles == 4 := by decide

/-- V58 of 95_test_vectors.md. -/
theorem test_v58 :
    ends (start { boot with pc := 0xFFF0, flags := flags false false false true true false }
        [(0xFFF0, 0xF0), (0xFFF1, 0x20)]) fun t =>
      t.cpu.pc == 0x0012 && t.cpu.flags == flags false false false true true false && t.cpu.cycles == 4 := by decide

/-- V59 of 95_test_vectors.md. -/
theorem test_v59 :
    ends (start boot [(0x0300, 0x50), (0x0301, 0xFE)]) fun t =>
      t.cpu.pc == 0x0300 && t.cpu.flags == flags false false false true false false && t.cpu.cycles == 3 := by decide

/-- V60 of 95_test_vectors.md. -/
theorem test_v60 :
    ends (start boot [(0x0300, 0x4C), (0x0301, 0x00), (0x0302, 0x04)]) fun t =>
      t.cpu.pc == 0x0400 && t.cpu.flags == flags false false false true false false && t.cpu.cycles == 3 := by decide

/-- V61 of 95_test_vectors.md. -/
theorem test_v61 :
    ends (start boot
        [(0x0300, 0x6C), (0x0301, 0xFF), (0x0302, 0x12), (0x12FF, 0x80), (0x1200, 0x40),
        (0x1300, 0x50)]) fun t =>
      t.cpu.pc == 0x4080 && t.cpu.flags == flags false false false true false false && t.cpu.cycles == 5 &&
      t.bus == [.read 0x0300 0x6C, .read 0x0301 0xFF, .read 0x0302 0x12, .read 0x12FF 0x80, .read 0x1200 0x40] := by decide

/-- V62 of 95_test_vectors.md. -/
theorem test_v62 :
    ends (start { boot with sp := 0x01FF } [(0x0300, 0x20), (0x0301, 0x34), (0x0302, 0x12)]) fun t =>
      t.cpu.sp == 0x01FD && t.cpu.pc == 0x1234 && t.cpu.flags == flags false false false true false false &&
      t.cpu.cycles == 6 && memAt t 0x01FF == 0x03 && memAt t 0x01FE == 0x02 &&
      t.bus == [.read 0x0300 0x20, .read 0x0301 0x34, .read 0x01FF 0x00, .write 0x01FF 0x03, .write 0x01FE 0x02, .read 0x0302 0x12] := by decide

/-- V63 of 95_test_vectors.md. -/
theorem test_v63 :
    ends (start { boot with pc := 0x1234 } [(0x1234, 0x60), (0x01FE, 0x02), (0x01FF, 0x03)]) fun t =>
      t.cpu.sp == 0x01FF && t.cpu.pc == 0x0303 && t.cpu.flags == flags false false false true false false &&
      t.cpu.cycles == 6 &&
      t.bus == [.read 0x1234 0x60, .read 0x1235 0x00, .read 0x01FD 0x00, .read 0x01FE 0x02, .read 0x01FF 0x03, .read 0x0302 0x00] := by decide

/-- V64 of 95_test_vectors.md. -/
theorem test_v64 :
    ends (start { boot with pc := 0x1234, sp := 0x01FF }
        [(0x1234, 0x60), (0x0100, 0xFF), (0x0101, 0xFF)]) fun t =>
      t.cpu.sp == 0x0101 && t.cpu.pc == 0x0000 && t.cpu.flags == flags false false false true false false &&
      t.cpu.cycles == 6 := by decide

/-- V65 of 95_test_vectors.md. -/
theorem test_v65 :
    ends (start { boot with sp := 0x01FF, flags := flags false false false false false true }
        [(0x0300, 0x00), (0x0301, 0xEA), (0xFFFE, 0x00), (0xFFFF, 0x80)]) fun t =>
      t.cpu.sp == 0x01FC && t.cpu.pc == 0x8000 && t.cpu.flags == flags false false false true false true &&
      t.cpu.cycles == 7 && memAt t 0x01FF == 0x03 && memAt t 0x01FE == 0x02 && memAt t 0x01FD == 0x31 &&
      t.bus == [.read 0x0300 0x00, .read 0x0301 0xEA, .write 0x01FF 0x03, .write 0x01FE 0x02, .write 0x01FD 0x31, .read 0xFFFE 0x00, .read 0xFFFF 0x80] := by decide

/-- V66 of 95_test_vectors.md. -/
theorem test_v66 :
    ends (start { boot with pc := 0x8000, sp := 0x01FC }
        [(0x8000, 0x40), (0x01FD, 0xFF), (0x01FE, 0x02), (0x01FF, 0x03)]) fun t =>
      t.cpu.sp == 0x01FF && t.cpu.pc == 0x0302 && t.cpu.flags == flags true true true true true true &&
      t.cpu.cycles == 6 &&
      t.bus == [.read 0x8000 0x40, .read 0x8001 0x00, .read 0x01FC 0x00, .read 0x01FD 0xFF, .read 0x01FE 0x02, .read 0x01FF 0x03] := by decide

/-- V67 of 95_test_vectors.md. -/
theorem test_v67 :
    ends (start boot [(0x0300, 0xEA)]) fun t =>
      t.cpu.pc == 0x0301 && t.cpu.flags == flags false false false true false false && t.cpu.cycles == 2 := by decide

/-- V68 of 95_test_vectors.md. -/
theorem test_v68 :
    ends (start { boot with a := 0x5A, sp := 0x0100 } [(0x0300, 0x48)]) fun t =>
      t.cpu.sp == 0x01FF && t.cpu.pc == 0x0301 && t.cpu.flags == flags false false false true false false &&
      t.cpu.cycles == 3 && memAt t 0x0100 == 0x5A &&
      t.bus == [.read 0x0300 0x48, .read 0x0301 0x00, .write 0x0100 0x5A] := by decide

/-- V69 of 95_test_vectors.md. -/
theorem test_v69 :
    ends (start { boot with sp := 0x01FF } [(0x0300, 0x68), (0x0100, 0x80)]) fun t =>
      t.cpu.a == 0x80 && t.cpu.sp == 0x0100 && t.cpu.pc == 0x0301 &&
      t.cpu.flags == flags true false false true false false && t.cpu.cycles == 4 := by decide

/-- V70 of 95_test_vectors.md. -/
theorem test_v70 :
    ends (start { boot with flags := flags true false true true false true } [(0x0300, 0x08)]) fun t =>
      t.cpu.sp == 0x01FC && t.cpu.pc == 0x0301 && t.cpu.flags == flags true false true true false true &&
      t.cpu.cycles == 3 && memAt t 0x01FD == 0xBD &&
      t.bus == [.read 0x0300 0x08, .read 0x0301 0x00, .write 0x01FD 0xBD] := by decide

/-- V71 of 95_test_vectors.md. -/
theorem test_v71 :
    ends (start { boot with sp := 0x01FC, flags := flags true true false true true true }
        [(0x0300, 0x28), (0x01FD, 0x00)]) fun t =>
      t.cpu.sp == 0x01FD && t.cpu.pc == 0x0301 &&
      t.cpu.flags == flags false false false false false false && t.cpu.cycles == 4 := by decide

/-- V72 of 95_test_vectors.md. -/
theorem test_v72 :
    ends (start { boot with sp := 0x01FC } [(0x0300, 0x28), (0x01FD, 0xFF)]) fun t =>
      t.cpu.sp == 0x01FD && t.cpu.pc == 0x0301 && t.cpu.flags == flags true true true true true true &&
      t.cpu.cycles == 4 := by decide

/-- V74 of 95_test_vectors.md. -/
theorem test_v74 :
    ends (withInputs ⟨true, false⟩ (start { boot with sp := 0x01FF, flags := flags false false false false true false }
        [(0x0300, 0xEA), (0xFFFE, 0x00), (0xFFFF, 0x90)])) fun t =>
      t.cpu.sp == 0x01FC && t.cpu.pc == 0x9000 && t.cpu.flags == flags false false false true true false &&
      t.cpu.cycles == 7 && memAt t 0x01FF == 0x03 && memAt t 0x01FE == 0x00 && memAt t 0x01FD == 0x22 &&
      t.bus == [.read 0x0300 0xEA, .read 0x0300 0xEA, .write 0x01FF 0x03, .write 0x01FE 0x00, .write 0x01FD 0x22, .read 0xFFFE 0x00, .read 0xFFFF 0x90] &&
      t.took == .irq := by decide

/-- V75 of 95_test_vectors.md. -/
theorem test_v75 :
    ends (withInputs ⟨false, true⟩ (start { boot with sp := 0x01FF }
        [(0x0300, 0xEA), (0xFFFA, 0x00), (0xFFFB, 0xA0)])) fun t =>
      t.cpu.sp == 0x01FC && t.cpu.pc == 0xA000 && t.cpu.flags == flags false false false true false false &&
      t.cpu.cycles == 7 && memAt t 0x01FD == 0x24 && t.took == .nmi := by decide

/-- V77 of 95_test_vectors.md. -/
theorem test_v77 :
    faults (start boot [(0x0300, 0x02)]) fun t =>
      t.cpu.pc == 0x0301 && t.cpu.flags == flags false false false true false false && t.cpu.cycles == 1 := by decide

/-- V78 of 95_test_vectors.md. -/
theorem test_v78 :
    ends (withParams { undefPolicy := .nop } (start boot [(0x0300, 0x02), (0x0301, 0xEA)])) fun t =>
      t.cpu.pc == 0x0301 && t.cpu.flags == flags false false false true false false && t.cpu.cycles == 2 := by decide

/-- V91 of 95_test_vectors.md. -/
theorem test_v91 :
    ends (withInputs ⟨true, false⟩ (start { boot with flags := flags false false false true false false }
        [(0x0300, 0xEA)])) fun t =>
      t.cpu.pc == 0x0301 && t.cpu.flags == flags false false false true false false && t.cpu.cycles == 2 &&
      t.took == .none := by decide

/-- V92 of 95_test_vectors.md. -/
theorem test_v92 :
    ends (withInputs ⟨true, true⟩ (start { boot with sp := 0x01FD, flags := flags false false false false false true }
        [(0xFFFA, 0x00), (0xFFFB, 0xA0), (0xFFFE, 0x00), (0xFFFF, 0x90)])) fun t =>
      t.cpu.sp == 0x01FA && t.cpu.pc == 0xA000 && t.cpu.flags == flags false false false true false true &&
      t.cpu.cycles == 7 && memAt t 0x01FD == 0x03 && memAt t 0x01FC == 0x00 && memAt t 0x01FB == 0x21 &&
      t.took == .nmi := by decide

/-- V94 of 95_test_vectors.md. -/
theorem test_v94 :
    ends (start { boot with pc := 0x01FD, sp := 0x01FF }
        [(0x01FD, 0x20), (0x01FE, 0x40), (0x01FF, 0x80)]) fun t =>
      t.cpu.sp == 0x01FD && t.cpu.pc == 0x0140 && t.cpu.flags == flags false false false true false false &&
      t.cpu.cycles == 6 && memAt t 0x01FF == 0x01 && memAt t 0x01FE == 0xFF := by decide

/-- R201: `zpy` wraps in page 0. -/
theorem test_ldx_zpy :
    ends (start { boot with y := 0x02 } [(0x0300, 0xB6), (0x0301, 0xFF), (0x0001, 0x80)]) fun t =>
      t.cpu.x == 0x80 && t.cpu.flags.n && t.cpu.cycles == 4 := by decide

/-- R202, its example. -/
theorem test_ldy_imm :
    ends (start boot [(0x0300, 0xA0), (0x0301, 0x01)]) fun t =>
      t.cpu.y == 0x01 && !t.cpu.flags.n && !t.cpu.flags.z := by decide

/-- R203, its example. -/
theorem test_sta_abs :
    ends (start { boot with a := 0x42 } [(0x0300, 0x8D), (0x0302, 0x02)]) fun t =>
      memAt t 0x0200 == 0x42 && t.cpu.cycles == 4 := by decide

/-- R204, its example. -/
theorem test_stx_zp :
    ends (start { boot with x := 0x07 } [(0x0300, 0x86), (0x0301, 0x10)]) fun t =>
      memAt t 0x0010 == 0x07 && t.cpu.cycles == 3 := by decide

/-- R205, its example. -/
theorem test_sty_zpx :
    ends (start { boot with x := 0xF0, y := 0x05 } [(0x0300, 0x94), (0x0301, 0x20)]) fun t =>
      memAt t 0x0010 == 0x05 && t.cpu.cycles == 4 := by decide

/-- R206, its example. -/
theorem test_tax :
    ends (start { boot with a := 0x80 } [(0x0300, 0xAA)]) fun t =>
      t.cpu.x == 0x80 && t.cpu.flags.n && !t.cpu.flags.z := by decide

/-- R207, its example. -/
theorem test_tay :
    ends (start { boot with y := 0x11 } [(0x0300, 0xA8)]) fun t =>
      t.cpu.y == 0x00 && t.cpu.flags.z := by decide

/-- R208, its example. -/
theorem test_txa :
    ends (start { boot with x := 0x7F } [(0x0300, 0x8A)]) fun t =>
      t.cpu.a == 0x7F && !t.cpu.flags.n && !t.cpu.flags.z := by decide

/-- R209, its example. -/
theorem test_tya :
    ends (start { boot with y := 0xFE } [(0x0300, 0x98)]) fun t =>
      t.cpu.a == 0xFE && t.cpu.flags.n := by decide

/-- R241, its example. -/
theorem test_dec_abs :
    ends (start { boot with pc := 0x0400 } [(0x0400, 0xCE), (0x0402, 0x03), (0x0300, 0x01)]) fun t =>
      memAt t 0x0300 == 0x00 && t.cpu.flags.z && t.cpu.cycles == 6 := by decide

/-- R242, its example. -/
theorem test_inx :
    ends (start { boot with x := 0x7F } [(0x0300, 0xE8)]) fun t =>
      t.cpu.x == 0x80 && t.cpu.flags.n := by decide

/-- R243, its example. -/
theorem test_iny :
    ends (start { boot with y := 0xFF } [(0x0300, 0xC8)]) fun t =>
      t.cpu.y == 0x00 && t.cpu.flags.z := by decide

/-- R244, its example. -/
theorem test_dex :
    ends (start { boot with x := 0x01 } [(0x0300, 0xCA)]) fun t =>
      t.cpu.x == 0x00 && t.cpu.flags.z := by decide

/-- R245, its example. -/
theorem test_dey :
    ends (start boot [(0x0300, 0x88)]) fun t =>
      t.cpu.y == 0xFF && t.cpu.flags.n := by decide

/-- R291, its example. -/
theorem test_bpl :
    ends (start boot [(0x0300, 0x10), (0x0301, 0x05)]) fun t =>
      t.cpu.pc == 0x0307 && t.cpu.cycles == 3 := by decide

/-- R294, its example. -/
theorem test_bvs :
    ends (start boot [(0x0300, 0x70), (0x0301, 0x80)]) fun t =>
      t.cpu.pc == 0x0302 && t.cpu.cycles == 2 := by decide

/-- R296, its example. -/
theorem test_bcs :
    ends (start { boot with flags := flags false false false true false true }
        [(0x0300, 0xB0), (0x0301, 0x10)]) fun t =>
      t.cpu.pc == 0x0312 && t.cpu.cycles == 3 := by decide

/-- R334, its example. -/
theorem test_clc :
    ends (start { boot with flags := flags true true true true true true } [(0x0300, 0x18)]) fun t =>
      t.cpu.flags == flags true true true true true false := by decide

/-- R335, its example. -/
theorem test_sec :
    ends (start boot [(0x0300, 0x38)]) fun t =>
      t.cpu.flags == flags false false false true false true := by decide

/-- R336, its example. -/
theorem test_cli :
    ends (start boot [(0x0300, 0x58)]) fun t =>
      t.cpu.flags == flags false false false false false false := by decide

/-- R337, its example. -/
theorem test_sei :
    ends (start { boot with flags := flags false false false false false false } [(0x0300, 0x78)]) fun t =>
      t.cpu.flags == flags false false false true false false := by decide

/-- R338, its example. -/
theorem test_cld :
    ends (start { boot with flags := flags true true true true true true } [(0x0300, 0xD8)]) fun t =>
      t.cpu.flags == flags true true false true true true := by decide

/-- R339, its example. -/
theorem test_sed :
    ends (start boot [(0x0300, 0xF8)]) fun t =>
      t.cpu.flags == flags false false true true false false := by decide

/-- R340, its example. -/
theorem test_clv :
    ends (start { boot with flags := flags true true true true true true } [(0x0300, 0xB8)]) fun t =>
      t.cpu.flags == flags true false true true true true := by decide

/-- V88 and V89 of 95_test_vectors.md. -/
theorem test_v88_v89 :
    (let s := start boot [(0x0300, 0xAD), (0x0302, 0x10), (0x1000, 0x33)]
     faults { s with host := { s.host with watchMask := [(0x1000, 0x01)] } } fun t =>
       t.cpu.a == 0x00 && t.cpu.pc == 0x0303 && t.cpu.cycles == 3) ∧
    (let s := start boot [(0x0300, 0xAD), (0x0302, 0x20)]
     faults { s with host := { s.host with readMap := [(0x20, none)] } } fun t =>
       t.cpu.a == 0x00 && t.cpu.pc == 0x0303 && t.cpu.cycles == 3) := by decide

/-- V90 of 95_test_vectors.md, its first step, with 0x200 for block W: the store is not seen at 0x8000. -/
theorem test_v90 :
    let s := start { boot with a := 0x55 } [(0x0300, 0x8D), (0x0302, 0x80), (0x8000, 0xC9)]
    ends { s with host := { s.host with writeMap := [(0x80, some 0x200)] } } fun t =>
      t.bus.getLast? == some (.write 0x8000 0x55) && memAt t 0x8000 == 0xC9 && cellByte t 0x20000 == 0x55 := by
  decide

/-- V80 of 95_test_vectors.md. -/
theorem test_v80 :
    (match hostReset (withParams { resetA := 0x5A, resetN := true, resetC := true }
        (start { boot with a := 0x12, sp := 0x0150, cycles := 1000 } [(0xFFFD, 0x03)])) with
      | .next t => t.cpu.a == 0x5A && t.cpu.pc == 0x0300 && t.cpu.sp == 0x01FD && t.cpu.cycles == 0 &&
          t.cpu.flags == flags true false false true false true
      | .fault _ => false
      | .refused _ => false) = true := by decide

/-! ### The statements' hypotheses can be met

One witness for each statement of Obligations.lean that has hypotheses, in its order; a statement with several
clauses has one for each, at a boundary of the range where the clauses meet. -/

/-- A machine with no entry in any table: storage, lines and parameters as given. -/
def plain (cpu : Cpu) (storage : Memory) (irq nmi : Bool) (params : Params) : State :=
  { cpu := cpu
    host :=
      { storage := storage, readMap := [], writeMap := [], watchPages := [], watchMask := []
        irq := irq, nmi := nmi, dev := 0 }
    params := params, took := .none, bus := [] }

theorem ready_plain (cpu : Cpu) (storage : Memory) (irq nmi : Bool) (params : Params) :
    Ready (plain cpu storage irq nmi params) := by
  constructor <;> intro a <;>
    simp [plain, watchPresent, readCell, writeCell, maskOf, freshMask, freshWatchPage, freshBlock,
      intercepts, breaksOnRead, breaksOnWrite, bit]

theorem unwatched_plain (cpu : Cpu) (storage : Memory) (irq nmi : Bool) (params : Params) :
    Unwatched (plain cpu storage irq nmi params) := by
  intro a
  simp [plain, maskOf, freshMask, intercepts, breaksOnRead, breaksOnWrite, bit]

/-- At 0x0300 with the byte `op` there. -/
def holding (op : Byte) (flags : Flags) (irq nmi : Bool) (params : Params) : State :=
  plain { boot with flags := flags } [(0x0300, op)] irq nmi params

theorem ready_holding (op : Byte) (f : Flags) (irq nmi : Bool) (params : Params) :
    Ready (holding op f irq nmi params) := ready_plain _ _ _ _ _

/-- What a read at 0x0300 gives, whatever the parameters. -/
theorem memAt_holding (op : Byte) (f : Flags) (irq nmi : Bool) (params : Params) (h : params.pageBits = 8) :
    memAt (holding op f irq nmi params) 0x0300 = op := by
  simp [holding, plain, memAt, peek, readCell, pageOf, cellIn, offsetOf, pageSize, freshBlock, cellByte,
    tableGet, h]

def clear : Flags := flags false false false false false false
def masked : Flags := flags false false false true false false

theorem witness_DecodingAnEncodedInstructionGivesItBack :
    Encoded.wf ⟨.tax, .none⟩ = true ∧ Encoded.wf ⟨.ldaImm, .byte 0xFF⟩ = true ∧
      Encoded.wf ⟨.jmpInd, .addr 0xFFFF⟩ = true := by decide

theorem witness_DecodedBytesAreTheEncodingOfAWellFormedInstruction :
    decode [0x8D, 0xFF, 0xFF, 0x02] = .ok (⟨.staAbs, .addr 0xFFFF⟩, [0x02]) := by decide

/-- Both policies, at the first and the last of the undefined bytes. -/
theorem witness_UndefinedOpcodesFollowThePolicy :
    (∃ s, Ready s ∧ NoEntry s ∧ memAt s s.cpu.pc ∈ undefinedBytes ∧
      tableGet freshDispatch s.params.dispatch (memAt s s.cpu.pc).toNat = .table ∧
      s.params.undefPolicy = .fault) ∧
    (∃ s, Ready s ∧ NoEntry s ∧ memAt s s.cpu.pc ∈ undefinedBytes ∧
      tableGet freshDispatch s.params.dispatch (memAt s s.cpu.pc).toNat = .table ∧
      s.params.undefPolicy = .nop) :=
  ⟨⟨holding 0x02 clear false false {}, ready_holding _ _ _ _ _, by decide, by decide, by decide, by decide⟩,
    ⟨holding 0xFF clear false false { undefPolicy := .nop }, ready_holding _ _ _ _ _, by decide, by decide,
      by decide, by decide⟩⟩

theorem witness_StepRunsTheDecodedInstruction :
    ∃ s e rest, Ready s ∧ NoEntry s ∧
      tableGet freshDispatch s.params.dispatch (memAt s s.cpu.pc).toNat = .table ∧
      decode [memAt s s.cpu.pc, memAt s (s.cpu.pc + 1), memAt s (s.cpu.pc + 2)] = .ok (e, rest) :=
  ⟨holding 0xEA clear false false {}, ⟨.nop, .none⟩, [0, 0], ready_holding _ _ _ _ _, by decide, by decide,
    by decide⟩

/-- The three clauses, the last by either of its alternatives. -/
theorem witness_StepTakesNmiThenIrqThenTheInstruction :
    (holding 0xEA masked false true {}).host.nmi = true ∧
    ((holding 0xEA clear true false {}).host.nmi = false ∧ (holding 0xEA clear true false {}).host.irq = true ∧
      (holding 0xEA clear true false {}).cpu.flags.i = false) ∧
    (State.reset.host.nmi = false ∧ State.reset.host.irq = false) ∧
    (holding 0xEA masked true false {}).cpu.flags.i = true := by decide

theorem witness_EveryInstructionCompletesOnAMappedUnwatchedMachine : Ready State.reset := ready_reset

theorem witness_RunsNeverStopUnderTheNopPolicy :
    ∃ s, Ready s ∧ s.params.undefPolicy = .nop ∧
      ∀ op, tableGet freshDispatch s.params.dispatch op ≠ .hostHandler :=
  ⟨holding 0x02 clear true true { undefPolicy := .nop }, ready_holding _ _ _ _ _, by decide,
    fun op => by simp [holding, plain, freshDispatch]⟩

/-- A fault at a byte outside the map, a fault at a byte that the host's table leaves out, and a refusal. -/
theorem witness_MappedUnwatchedStepsStopOnlyAtTheOpcode :
    (∃ s f, Ready s ∧ step s = .fault f ∧ memAt s s.cpu.pc ∈ undefinedBytes) ∧
    (∃ s f, Ready s ∧ step s = .fault f ∧ memAt s s.cpu.pc = 0xEA) ∧
    (∃ s r, Ready s ∧ step s = .refused r) :=
  ⟨⟨holding 0x02 clear false false {}, _, ready_holding _ _ _ _ _, rfl, by decide⟩,
    ⟨holding 0xEA clear false false { dispatch := [(0xEA, .undefined)] }, _, ready_holding _ _ _ _ _, rfl,
      by decide⟩,
    ⟨holding 0xEA clear false false { dispatch := [(0xEA, .hostHandler)] }, _, ready_holding _ _ _ _ _, rfl⟩⟩

/-- Address 0x0010 with the mask `m`, and the callbacks set or not. -/
def watched (m : Byte) (set : Bool) : State :=
  { boot_ with
    host := { boot_.host with watchMask := [(0x0010, m)] }
    params := { hasOnRead := set, hasOnWrite := set, hasOnBreakpoint := set } }

/-- A page with no entry in the watch table, in `readMap` and in `writeMap`. -/
def unmappedWatch : State := { boot_ with host := { boot_.host with watchPages := [(0x00, false)] } }
def unmappedRead : State := { boot_ with host := { boot_.host with readMap := [(0x00, none)] } }
def unmappedWrite : State := { boot_ with host := { boot_.host with writeMap := [(0x00, none)] } }

/-- The fault clauses by each alternative; the mapped clause with either bit set and with none. What a set
callback answers is free, so its clauses are met by whichever of its two answers it gives. -/
theorem witness_BusReadFollowsTheWatchMask :
    watchPresent unmappedWatch 0x0010 = false ∧ readCell unmappedRead 0x0010 = none ∧
    ((maskOf (watched 0x01 false) 0x0010).getLsbD 0 = true ∧ (watched 0x01 false).params.hasOnRead = false) ∧
    ((maskOf (watched 0x02 false) 0x0010).getLsbD 1 = true ∧
      (watched 0x02 false).params.hasOnBreakpoint = false) ∧
    (watchPresent (watched 0x03 true) 0x0010 = true ∧ readCell (watched 0x03 true) 0x0010 ≠ none ∧
      (watched 0x03 true).params.hasOnRead = true ∧ (watched 0x03 true).params.hasOnBreakpoint = true) ∧
    ((maskOf boot_ 0x0010).getLsbD 0 = false ∧ peek boot_ 0x0010 = some 0x00) := by decide

theorem witness_BusReadFollowsTheWatchMask_callbacks (h : HostState) (c : Cpu) (a : Addr) :
    (Config.onRead h a = .reentered ∨ ∃ v es, Config.onRead h a = .returned v es) ∧
    (Config.onBreakpoint h c a = .reentered ∨ ∃ es, Config.onBreakpoint h c a = .returned () es) := by
  constructor
  · cases Config.onRead h a with
    | returned v es => exact .inr ⟨v, es, rfl⟩
    | reentered => exact .inl rfl
  · cases Config.onBreakpoint h c a with
    | returned v es => exact .inr ⟨es, rfl⟩
    | reentered => exact .inl rfl

theorem witness_BusWriteFollowsTheWatchMask :
    watchPresent unmappedWatch 0x0010 = false ∧ writeCell unmappedWrite 0x0010 = none ∧
    ((maskOf (watched 0x01 false) 0x0010).getLsbD 0 = true ∧ (watched 0x01 false).params.hasOnWrite = false) ∧
    ((maskOf (watched 0x04 false) 0x0010).getLsbD 2 = true ∧
      (watched 0x04 false).params.hasOnBreakpoint = false) ∧
    (watchPresent (watched 0x05 true) 0x0010 = true ∧ writeCell (watched 0x05 true) 0x0010 ≠ none ∧
      (watched 0x05 true).params.hasOnWrite = true ∧ (watched 0x05 true).params.hasOnBreakpoint = true) ∧
    ((maskOf boot_ 0x0010).getLsbD 0 = false ∧ writeCell boot_ 0x0010 = some 0x0010) := by decide

theorem witness_BusWriteFollowsTheWatchMask_callbacks (h : HostState) (a : Addr) (v : Byte) :
    Config.onWrite h a v = .reentered ∨ ∃ es, Config.onWrite h a v = .returned () es := by
  cases Config.onWrite h a v with
  | returned v es => exact .inr ⟨es, rfl⟩
  | reentered => exact .inl rfl

theorem witness_DebugReadHasNoEffect :
    peek (watched 0xFF false) 0x0010 = some 0x00 ∧ readCell unmappedRead 0x00FF = none := by decide

theorem witness_AStoreIsReadBackExactlyFromItsOwnCell :
    Ready State.reset ∧ Memory.wf State.reset.host.storage = true := ⟨ready_reset, by decide⟩

theorem witness_BusAccessesChangeOnlyCyclesOfTheCpu :
    (∃ v t, memRead 0xFFFF State.reset = .next (v, t)) ∧ ∃ w t, memWrite 0xFFFF 0xFF State.reset = .next (w, t) :=
  ⟨⟨_, _, rfl⟩, ⟨_, _, rfl⟩⟩

theorem witness_EveryStepKeepsTheStateWellFormed :
    ∃ s t, State.wf s = true ∧ step s = .next t := ⟨State.reset, _, by decide, rfl⟩

theorem witness_EveryStepCountsItsBusAccesses : ∃ s t, step s = .next t := ⟨State.reset, _, rfl⟩

theorem witness_NoStepChangesTheClassOrAParameter : ∃ s t, step s = .next t := ⟨State.reset, _, rfl⟩

/-- With an NMI pending and without. -/
theorem witness_UnwatchedStepsLeaveTheHostTablesAlone :
    (∃ s t, Unwatched s ∧ step s = .next t ∧ s.host.nmi = true) ∧
    (∃ s t, Unwatched s ∧ step s = .next t ∧ s.host.nmi = false) :=
  ⟨⟨holding 0xEA clear true true {}, _, unwatched_plain _ _ _ _ _, rfl, rfl⟩,
    ⟨holding 0xEA clear true false {}, _, unwatched_plain _ _ _ _ _, rfl, rfl⟩⟩

theorem witness_ResetSetsTheStatedValues :
    (peek State.reset 0xFFFC = some 0x00 ∧ peek State.reset 0xFFFD = some 0x00) ∧
    peek { boot_ with host := { boot_.host with readMap := [(0xFF, none)] } } 0xFFFC = none := by decide

/-- The hypotheses of every statement that asks only for a mapped unwatched machine, and of those that name
a form besides: Loads, Stores, Transfers, Compares, Increments, Logic, Shifts, Jumps, JSR, RTS, BRK, RTI, NOP,
PHA and PLA, PHP and PLP, the flag instructions and the stack pointer. -/
theorem witness_LoadsPutTheOperandInTheRegister :
    Ready State.reset ∧ Instr.ldaIndY ∈ ldaForms ∧ Instr.ldxZpY ∈ ldxForms ∧ Instr.ldyAbsX ∈ ldyForms :=
  ⟨ready_reset, by decide, by decide, by decide⟩

theorem witness_StoresWriteTheRegisterAtTheEffectiveAddress :
    Ready State.reset ∧ Instr.staIndX ∈ staForms ∧ Instr.stxZpY ∈ stxForms ∧ Instr.styAbs ∈ styForms :=
  ⟨ready_reset, by decide, by decide, by decide⟩

theorem witness_TransfersCopyTheRegister : Ready State.reset := ready_reset

/-- Both modes. -/
theorem witness_AdcAddsWithCarryInBothModes :
    Instr.adcAbsX ∈ adcForms ∧
    (∃ s, Ready s ∧ s.cpu.flags.d = true ∧ s.params.adcDecCarry = .decimal) ∧
    (∃ s, Ready s ∧ s.cpu.flags.d = true ∧ s.params.adcDecCarry = .binary) ∧
    ∃ s, Ready s ∧ s.cpu.flags.d = false :=
  ⟨by decide,
    ⟨holding 0x69 (flags false false true false false true) false false {}, ready_holding _ _ _ _ _, rfl, rfl⟩,
    ⟨holding 0x69 (flags false false true false false true) false false { adcDecCarry := .binary },
      ready_holding _ _ _ _ _, rfl, rfl⟩,
    ⟨State.reset, ready_reset, rfl⟩⟩

theorem witness_SbcSubtractsWithBorrowInBothModes :
    Instr.sbcIndX ∈ sbcForms ∧ (∃ s, Ready s ∧ s.cpu.flags.d = true) ∧ ∃ s, Ready s ∧ s.cpu.flags.d = false :=
  ⟨by decide,
    ⟨holding 0xE9 (flags false false true false false true) false false {}, ready_holding _ _ _ _ _, rfl⟩,
    ⟨State.reset, ready_reset, rfl⟩⟩

/-- The greatest and the least digits, and those of 99 + 01 and 00 - 01. -/
theorem witness_DecimalModeIsDecimalArithmeticOnBcdDigits :
    (flags false false true false false true).d = true ∧
    let bcd := fun b : Byte => b.toNat % 16 ≤ 9 ∧ b.toNat / 16 ≤ 9
    bcd 0x99 ∧ bcd 0x00 ∧ bcd 0x01 := by decide

theorem witness_ComparesSetOnlyNZAndC :
    Ready State.reset ∧ Instr.cmpIndY ∈ cmpForms ∧ Instr.cpxAbs ∈ cpxForms ∧ Instr.cpyImm ∈ cpyForms :=
  ⟨ready_reset, by decide, by decide, by decide⟩

theorem witness_IncrementsAndDecrementsWrapAndSetNZ :
    Ready State.reset ∧ Instr.incAbsX ∈ incForms ∧ Instr.decZpX ∈ decForms :=
  ⟨ready_reset, by decide, by decide⟩

theorem witness_LogicInstructionsCombineWithA :
    Ready State.reset ∧ Instr.andZpX ∈ andForms ∧ Instr.oraAbsY ∈ oraForms ∧ Instr.eorIndX ∈ eorForms :=
  ⟨ready_reset, by decide, by decide, by decide⟩

theorem witness_BitTestsMemoryAgainstA : Ready State.reset ∧ Instr.bitAbs ∈ bitForms :=
  ⟨ready_reset, by decide⟩

theorem witness_ShiftsAndRotatesMoveBitsThroughCarry :
    Ready State.reset ∧ Instr.aslZp ∈ aslForms ∧ Instr.lsrZpX ∈ lsrForms ∧ Instr.rolAbs ∈ rolForms ∧
      Instr.rorAbsX ∈ rorForms := ⟨ready_reset, by decide, by decide, by decide, by decide⟩

/-- Taken within the page, taken across it by one byte, and not taken: BPL at 0x02FB with offset 2, 3. -/
theorem witness_BranchesFollowTheirFlag :
    Ready State.reset ∧ Instr.bpl ∈ [Instr.bpl, .bmi, .bvc, .bvs, .bcc, .bcs, .bne, .beq] ∧
    highByte ((0x02FD : Addr) + (0x02 : Byte).signExtend 16) = highByte (0x02FD : Addr) ∧
    highByte ((0x02FD : Addr) + (0x03 : Byte).signExtend 16) ≠ highByte (0x02FD : Addr) ∧
    (holding 0x10 (flags true false false false false false) false false {}).cpu.flags.n = true :=
  ⟨ready_reset, by decide, by decide, by decide, by decide⟩

theorem witness_JumpsLoadPc : Ready State.reset := ready_reset
theorem witness_JsrPushesItsLastByteAddressBeforeItsLastFetch : Ready State.reset := ready_reset
theorem witness_RtsPullsPcAndAddsOne : Ready State.reset := ready_reset
theorem witness_BrkTakesTheVectoredEntry : Ready State.reset := ready_reset
theorem witness_RtiPullsTheFlagsAndPc : Ready State.reset := ready_reset
theorem witness_NopOnlyTakesACycle : Ready State.reset := ready_reset
theorem witness_PhaAndPlaMoveAThroughTheStack : Ready State.reset := ready_reset
theorem witness_PhpAndPlpMoveTheFlagsThroughTheStack : Ready State.reset := ready_reset
theorem witness_FlagInstructionsChangeOneFlag : Ready State.reset := ready_reset

/-- SP at each end of page 1. -/
theorem witness_TheStackPointerMovesInsidePage1 :
    (∃ s, Ready s ∧ s.cpu.sp = 0x0100) ∧ ∃ s, Ready s ∧ s.cpu.sp = 0x01FF :=
  ⟨⟨plain { boot with sp := 0x0100 } [] false false {}, ready_plain _ _ _ _ _, rfl⟩,
    ⟨plain { boot with sp := 0x01FF } [] false false {}, ready_plain _ _ _ _ _, rfl⟩⟩

/-- With SP at the bottom of page 1, so that the pushes wrap. -/
theorem witness_RtsReturnsPastTheJsr :
    ∃ s, Ready s ∧ s.wf = true ∧ readCell s s.cpu.sp = writeCell s s.cpu.sp ∧
      readCell s (spDown s.cpu.sp) = writeCell s (spDown s.cpu.sp) ∧
      readCell s s.cpu.sp ≠ readCell s (spDown s.cpu.sp) :=
  ⟨plain { boot with sp := 0x0100 } [] false false {}, ready_plain _ _ _ _ _, by decide, by decide, by decide,
    by decide⟩

/-- The hypotheses of the two statements on RTI's return, with SP where the pushes wrap. -/
theorem witness_RtiReturnsToTwoPastTheBrk :
    ∃ s, Ready s ∧ s.wf = true ∧ readCell s s.cpu.sp = writeCell s s.cpu.sp ∧
      readCell s (spDown s.cpu.sp) = writeCell s (spDown s.cpu.sp) ∧
      readCell s (spDown (spDown s.cpu.sp)) = writeCell s (spDown (spDown s.cpu.sp)) ∧
      readCell s s.cpu.sp ≠ readCell s (spDown s.cpu.sp) ∧
      readCell s s.cpu.sp ≠ readCell s (spDown (spDown s.cpu.sp)) ∧
      readCell s (spDown s.cpu.sp) ≠ readCell s (spDown (spDown s.cpu.sp)) :=
  ⟨plain { boot with sp := 0x0101 } [] false false {}, ready_plain _ _ _ _ _, by decide, by decide, by decide,
    by decide, by decide, by decide, by decide⟩

theorem witness_RtiReturnsToTheInterruptedInstruction :
    ∃ s, Ready s ∧ s.wf = true ∧ readCell s s.cpu.sp = writeCell s s.cpu.sp ∧
      readCell s (spDown s.cpu.sp) = writeCell s (spDown s.cpu.sp) ∧
      readCell s (spDown (spDown s.cpu.sp)) = writeCell s (spDown (spDown s.cpu.sp)) ∧
      readCell s s.cpu.sp ≠ readCell s (spDown s.cpu.sp) ∧
      readCell s s.cpu.sp ≠ readCell s (spDown (spDown s.cpu.sp)) ∧
      readCell s (spDown s.cpu.sp) ≠ readCell s (spDown (spDown s.cpu.sp)) :=
  witness_RtiReturnsToTwoPastTheBrk

theorem witness_NmiIsEnteredWhateverIIs :
    (∃ s, Ready s ∧ s.host.nmi = true ∧ s.cpu.flags.i = true) ∧
    ∃ s, Ready s ∧ s.host.nmi = true ∧ s.cpu.flags.i = false :=
  ⟨⟨holding 0xEA masked false true {}, ready_holding _ _ _ _ _, rfl, rfl⟩,
    ⟨holding 0xEA clear true true {}, ready_holding _ _ _ _ _, rfl, rfl⟩⟩

theorem witness_IrqIsEnteredWhenIIsClear :
    ∃ s, Ready s ∧ s.host.nmi = false ∧ s.host.irq = true ∧ s.cpu.flags.i = false :=
  ⟨holding 0xEA clear true false {}, ready_holding _ _ _ _ _, rfl, rfl, rfl⟩

/-- Both requested, and a step after the entry that completes. -/
theorem witness_NmiGoesBeforeIrqWhichStaysPending :
    ∃ s t u, Ready s ∧ s.host.nmi = true ∧ s.host.irq = true ∧ step s = .next t ∧ step t = .next u :=
  ⟨holding 0xEA clear true true {}, _, _, ready_holding _ _ _ _ _, rfl, rfl, rfl, rfl⟩

theorem witness_AnAssertedIrqIsEnteredRightAfterCli :
    ∃ s, Ready s ∧ s.host.nmi = false ∧ s.host.irq = true ∧ s.cpu.flags.i = true ∧
      memAt s s.cpu.pc = 0x58 ∧ tableGet freshDispatch s.params.dispatch 0x58 = .table :=
  ⟨holding 0x58 masked true false {}, ready_holding _ _ _ _ _, rfl, rfl, rfl, by decide, rfl⟩

/-- A defined opcode, an entry, an undefined opcode under each policy, and a reset. -/
theorem witness_StepsTakeTheCyclesOfTheTable :
    (∃ s i, Ready s ∧ NoEntry s ∧
      tableGet freshDispatch s.params.dispatch (memAt s s.cpu.pc).toNat = .table ∧
      decodeOpcode (memAt s s.cpu.pc) = some i) ∧
    (∃ s, Ready s ∧ ¬NoEntry s) ∧
    (∀ p ∈ [UndefPolicy.nop, .fault], ∃ s, Ready s ∧ NoEntry s ∧
      tableGet freshDispatch s.params.dispatch (memAt s s.cpu.pc).toNat = .table ∧
      decodeOpcode (memAt s s.cpu.pc) = none ∧ s.params.undefPolicy = p) ∧
    ∃ s t, hostReset s = .next t :=
  ⟨⟨holding 0xEA clear false false {}, .nop, ready_holding _ _ _ _ _, by decide, by decide, by decide⟩,
    ⟨holding 0xEA clear true false {}, ready_holding _ _ _ _ _, by decide⟩,
    fun p _ => ⟨holding 0x02 clear false false { undefPolicy := p }, ready_holding _ _ _ _ _,
      ⟨rfl, fun h => by simp [holding, plain] at h⟩, rfl,
      by rw [show (holding 0x02 clear false false { undefPolicy := p }).cpu.pc = 0x0300 from rfl,
        memAt_holding _ _ _ _ _ rfl]; decide, rfl⟩,
    ⟨State.reset, _, rfl⟩⟩

/-- The sum of the low byte and the index at 0xFF and at 0x100, in both classes. -/
theorem witness_IndexedDummyReadTargetFollowsTheClass :
    ((0x12FF : Addr).toNat % 256 + (0x01 : Byte).toNat > 0xFF) ∧
    ¬((0x12FF : Addr).toNat % 256 + (0x00 : Byte).toNat > 0xFF) ∧
    (∃ s : State, s.cpu.cls = .legacy) ∧ ∃ s : State, s.cpu.cls = .extended :=
  ⟨by decide, by decide, ⟨boot_, rfl⟩, ⟨{ boot_ with cpu := { boot with cls := .extended } }, rfl⟩⟩

/-- Both sides of the boundary, the top of memory included. -/
theorem witness_IndexingCrossesAPageWhenTheLowByteCarries :
    crossed 0xFFFF 0x01 = true ∧ crossed 0xFFFF 0x00 = false ∧ crossed 0x1200 0xFF = false := by decide

/-- With and without a page cross: base 0x12FF and 0x1200, X = 1. -/
theorem witness_TheClassOnlyMovesTheIndexedDummyRead :
    (∃ s, Ready s ∧ s.cpu.cls = .legacy ∧ crosses (modeOf .ldaAbsX) s = true) ∧
    (∃ s, Ready s ∧ s.cpu.cls = .legacy ∧ crosses (modeOf .ldaIndY) s = true) ∧
      ∃ s, Ready s ∧ s.cpu.cls = .legacy ∧ crosses (modeOf .staAbsX) s = false :=
  ⟨⟨plain { boot with x := 0x01 } [(0x0300, 0xFF), (0x0301, 0x12)] false false {}, ready_plain _ _ _ _ _, rfl,
      by decide⟩,
    ⟨plain { boot with y := 0x01 } [(0x0010, 0xFF), (0x0011, 0x12), (0x0300, 0x10)] false false {},
      ready_plain _ _ _ _ _, rfl, by decide⟩,
    ⟨plain { boot with x := 0x01 } [(0x0301, 0x12)] false false {}, ready_plain _ _ _ _ _, rfl, by decide⟩⟩

theorem witness_InstructionsWriteOnlyTheirOwnRegistersAndFlags :
    ∃ s t, exec .clc s = .next t ∧ Instr.clc ∉ aWriters ∧ Instr.clc ∉ nzWriters :=
  ⟨State.reset, _, rfl, by decide, by decide⟩

theorem witness_InstructionsThatDoNotStoreLeaveMemory :
    ∃ s t, Unwatched s ∧ Instr.cmpIndY ∉ storers ∧ exec .cmpIndY s = .next t :=
  ⟨plain boot [] false false {}, _, unwatched_plain _ _ _ _ _, by decide, rfl⟩

theorem witness_StoringInstructionsChangeOnlyTheEffectiveAddress :
    ∃ p ∈ storesThrough, ∃ s t a u, Unwatched s ∧ exec p.1 s = .next t ∧ p.2 s = .next (a, u) :=
  ⟨(.staZp, eaZp), .head _, plain boot [] false false {}, _, _, _, unwatched_plain _ _ _ _ _, rfl, rfl⟩

theorem witness_PushingInstructionsChangeOnlyTheStackBytes :
    ∃ s, Unwatched s ∧ (∃ t, exec .pha s = .next t) ∧ (∃ t, exec .php s = .next t) ∧
      (∃ t, exec .jsr s = .next t) ∧ ∃ t, exec .brk s = .next t :=
  ⟨plain { boot with sp := 0x0100 } [] false false {}, unwatched_plain _ _ _ _ _, ⟨_, rfl⟩, ⟨_, rfl⟩, ⟨_, rfl⟩,
    ⟨_, rfl⟩⟩

end Sys2Proof.Tests
end

section
/-! The closed forms of the addressing pipelines (40_pipelines.md R111 to R128) and of the kinds (R113, R114),
in the terms of Machine/BusSpec.lean: on a ready machine the pipeline of mode `m` yields `eaOf m`, makes the
accesses `addressBus _ m` and leaves PC after the operand. -/

namespace Sys2Proof.Machine

/-! ### Accesses in the middle of an instruction

`afterBus es pc s` is the one normal form of a state whose instruction has made the accesses `es` since `s`. -/

@[simp] theorem afterBus_pc (s : State) (es : List BusAccess) (pc : Addr) : (afterBus es pc s).cpu.pc = pc := rfl
@[simp] theorem afterBus_flags (s : State) (es : List BusAccess) (pc : Addr) :
    (afterBus es pc s).cpu.flags = s.cpu.flags := rfl
@[simp] theorem afterBus_bus (s : State) (es : List BusAccess) (pc : Addr) :
    (afterBus es pc s).bus = s.bus ++ es := rfl

theorem afterBus_nil (s : State) : afterBus [] s.cpu.pc s = s := by simp [afterBus]

theorem tick_afterBus (s : State) (es : List BusAccess) (pc : Addr) (e : BusAccess) :
    (afterBus es pc s).tick e = afterBus (es ++ [e]) pc s := by
  simp [afterBus, State.tick, Nat.add_assoc]

theorem storeAt_afterBus (s : State) (es : List BusAccess) (pc a : Addr) (v : Byte) :
    storeAt a v (afterBus es pc s) = afterBus es pc (storeAt a v s) := by
  have hw : writeCell (afterBus es pc s) a = writeCell s a := rfl
  unfold storeAt; rw [hw]; split <;> rfl

section
variable {s : State} (h : Ready s) (es : List BusAccess) (pc : Addr)
include h

theorem memRead_afterBus (a : Addr) :
    memRead a (afterBus es pc s) = .next (memAt s a, afterBus (es ++ [readOf s a]) pc s) := by
  rw [memRead_ready ((ready_afterBus s es pc).mpr h), tick_afterBus]; rfl

theorem memWrite_afterBus (a : Addr) (v : Byte) :
    memWrite a v (afterBus es pc s) = .next ((), afterBus (es ++ [.write a v]) pc (storeAt a v s)) := by
  rw [memWrite_ready ((ready_afterBus s es pc).mpr h), storeAt_afterBus, tick_afterBus]

theorem dummyRead_afterBus (a : Addr) :
    dummyRead a (afterBus es pc s) = .next ((), afterBus (es ++ [readOf s a]) pc s) := by
  rw [dummyRead, memRead_afterBus h, andThen_next]

theorem fetchByte_afterBus :
    fetchByte (afterBus es pc s) = .next (memAt s pc, afterBus (es ++ [readOf s pc]) (pc + 1) s) := by
  simp only [fetchByte, afterBus_pc, memRead_afterBus h, andThen_next]; rfl

theorem zeroPageWord_afterBus (p : Byte) :
    zeroPageWord p (afterBus es pc s) =
      .next (pointerWord s p, afterBus (es ++ [readOf s (zext p), readOf s (zext (p + 1))]) pc s) := by
  simp [zeroPageWord, memRead_afterBus h, pointerWord]

end

/-- The first access after the opcode. -/
theorem fetchByte_atOperand {s : State} (h : Ready s) :
    fetchByte s = .next (byte1 s, afterBus [readOf s s.cpu.pc] (s.cpu.pc + 1) s) := by
  simpa [afterBus_nil, byte1] using fetchByte_afterBus h [] s.cpu.pc

/-! ### Indexed addresses -/

/-- The modes that add an index to a word (R111, R112). -/
def AddsIndex (m : Mode) : Prop := m = .absx ∨ m = .absy ∨ m = .indy

theorem lowByte_add_zext (base : Addr) (idx : Byte) : lowByte (base + zext idx) = lowByte base + idx := by
  apply BitVec.eq_of_toNat_eq
  simp only [lowByte_toNat, BitVec.toNat_add, zext_toNat]
  omega

/-- R112: the low bytes' sum carries exactly when the high byte changes. -/
theorem crossed_eq (base : Addr) (idx : Byte) :
    crossed base idx = decide (highByte (base + zext idx) ≠ highByte base) := by
  have hi := idx.isLt
  have hb := base.isLt
  simp only [crossed, ne_eq, ← BitVec.toNat_inj, highByte_toNat, lowByte_toNat, BitVec.toNat_add, zext_toNat]
  exact decide_eq_decide.mpr (by omega)

theorem wrapped_eq (base : Addr) (idx : Byte) :
    wrapped base idx = word (highByte base) (lowByte (base + zext idx)) := by
  rw [wrapped, lowByte_add_zext]

/-- Without a cross the wrapped address is the effective one. -/
theorem wrapped_of_not_crossed {base : Addr} {idx : Byte} (h : crossed base idx = false) :
    wrapped base idx = base + zext idx := by
  have hh : highByte (base + zext idx) = highByte base := by simpa [crossed_eq] using h
  rw [wrapped_eq, ← hh, word_highByte_lowByte]

variable {m : Mode} {s : State}

theorem eaOf_addsIndex (hm : AddsIndex m) : eaOf m s = baseOf m s + zext (indexOf m s) := by
  rcases hm with rfl | rfl | rfl <;> rfl

theorem crosses_addsIndex (hm : AddsIndex m) : crosses m s = crossed (baseOf m s) (indexOf m s) := by
  rw [crossed_eq]; rcases hm with rfl | rfl | rfl <;> rfl

/-- R111 and `penaltyAddr` name the same address. -/
theorem indexedDummyTarget_eq (hm : AddsIndex m) :
    indexedDummyTarget s.cpu.cls (pcAfter m s) (baseOf m s) (indexOf m s) = penaltyAddr m s := by
  unfold indexedDummyTarget penaltyAddr
  rw [crosses_addsIndex hm, eaOf_addsIndex hm, ← wrapped_eq]
  split
  · rfl
  · next hc => exact wrapped_of_not_crossed (by simpa using hc)

theorem indexedDummyRead_afterBus (hm : AddsIndex m) (h : Ready s) (es : List BusAccess) :
    indexedDummyRead (baseOf m s) (indexOf m s) (afterBus es (pcAfter m s) s) =
      .next ((), afterBus (es ++ [readOf s (penaltyAddr m s)]) (pcAfter m s) s) := by
  rw [← indexedDummyTarget_eq hm]
  exact dummyRead_afterBus h es _ _

theorem dummyIfCrossed_afterBus (hm : AddsIndex m) (h : Ready s) (es : List BusAccess) :
    dummyIfCrossed (baseOf m s) (indexOf m s) (afterBus es (pcAfter m s) s) =
      .next ((), afterBus (es ++ penaltyBus .read m s) (pcAfter m s) s) := by
  rw [dummyIfCrossed, ← crosses_addsIndex hm, indexedDummyRead_afterBus hm h]
  cases hc : crosses m s <;> simp [penaltyBus, hc]

/-! ### The pipelines of the modes -/

/-- The pipeline `ea` of a `k`-kind instruction does what the tables say of mode `m`. -/
def Addresses (k : AccessKind) (m : Mode) (ea : State → Res Addr) : Prop :=
  ∀ s, Ready s → ea s = .next (eaOf m s, afterBus (addressBus k m s) (pcAfter m s) s)

variable {k : AccessKind}

theorem addresses_zp : Addresses k .zp eaZp := fun s h => by
  rw [eaZp, fetchByte_atOperand h]; rfl

theorem addresses_zpx : Addresses k .zpx (eaZpIndexed (·.x)) := fun s h => by
  simp only [eaZpIndexed, fetchByte_atOperand h, andThen_next, dummyRead_afterBus h]; rfl

theorem addresses_zpy : Addresses k .zpy (eaZpIndexed (·.y)) := fun s h => by
  simp only [eaZpIndexed, fetchByte_atOperand h, andThen_next, dummyRead_afterBus h]; rfl

theorem addresses_abs : Addresses k .abs eaAbs := fun s h => by
  simp only [eaAbs, fetchByte_atOperand h, andThen_next, fetchByte_afterBus h, BitVec.add_assoc]; rfl

theorem addresses_indx : Addresses k .indx eaIndX := fun s h => by
  simp only [eaIndX, fetchByte_atOperand h, andThen_next, dummyRead_afterBus h, zeroPageWord_afterBus h]; rfl

/-- R125, for both index registers. -/
theorem eaAbsIndexedRead_ready {idx : Cpu → Byte} (hm : AddsIndex m) (h : Ready s)
    (hb : baseOf m s = eaOf .abs s) (hp : pcAfter m s = pcAfter .abs s)
    (hi : ∀ es pc, idx (afterBus es pc s).cpu = indexOf m s) :
    eaAbsIndexedRead idx s =
      .next (eaOf m s, afterBus (addressBus .read .abs s ++ penaltyBus .read m s) (pcAfter m s) s) := by
  rw [eaAbsIndexedRead, addresses_abs (k := .read) s h, andThen_next, hi, ← hb, ← hp,
    dummyIfCrossed_afterBus hm h, andThen_next, hi, eaOf_addsIndex hm]

/-- R126, for both index registers. -/
theorem eaAbsIndexedWrite_ready {idx : Cpu → Byte} (hm : AddsIndex m) (h : Ready s)
    (hb : baseOf m s = eaOf .abs s) (hp : pcAfter m s = pcAfter .abs s)
    (hi : ∀ es pc, idx (afterBus es pc s).cpu = indexOf m s) :
    eaAbsIndexedWrite idx s =
      .next (eaOf m s,
        afterBus (addressBus .write .abs s ++ [readOf s (penaltyAddr m s)]) (pcAfter m s) s) := by
  rw [eaAbsIndexedWrite, addresses_abs (k := .write) s h, andThen_next, hi, ← hb, ← hp,
    indexedDummyRead_afterBus hm h, andThen_next, hi, eaOf_addsIndex hm]

theorem addresses_absx_read : Addresses .read .absx (eaAbsIndexedRead (·.x)) := fun _ h =>
  eaAbsIndexedRead_ready (.inl rfl) h rfl rfl fun _ _ => rfl

theorem addresses_absy_read : Addresses .read .absy (eaAbsIndexedRead (·.y)) := fun _ h =>
  eaAbsIndexedRead_ready (.inr (.inl rfl)) h rfl rfl fun _ _ => rfl

/-- Write and rmw kinds take the penalty cycle whether or not the addition crosses. -/
theorem penaltyBus_of_ne_read (hk : k ≠ .read) (m : Mode) (s : State) :
    penaltyBus k m s = [readOf s (penaltyAddr m s)] := by
  simp [penaltyBus, hk]

theorem addresses_absx_write (hk : k ≠ .read) : Addresses k .absx (eaAbsIndexedWrite (·.x)) := fun s h => by
  rw [addressBus, penaltyBus_of_ne_read hk]
  exact eaAbsIndexedWrite_ready (.inl rfl) h rfl rfl fun _ _ => rfl

theorem addresses_absy_write (hk : k ≠ .read) : Addresses k .absy (eaAbsIndexedWrite (·.y)) := fun s h => by
  rw [addressBus, penaltyBus_of_ne_read hk]
  exact eaAbsIndexedWrite_ready (.inr (.inl rfl)) h rfl rfl fun _ _ => rfl

theorem addresses_indy_read : Addresses .read .indy eaIndYRead := fun s h => by
  simp only [eaIndYRead, fetchByte_atOperand h, andThen_next, zeroPageWord_afterBus h]
  change andThen (dummyIfCrossed (baseOf .indy s) (indexOf .indy s) (afterBus _ (pcAfter .indy s) s)) _ = _
  rw [dummyIfCrossed_afterBus (.inr (.inr rfl)) h]; rfl

theorem addresses_indy_write (hk : k ≠ .read) : Addresses k .indy eaIndYWrite := fun s h => by
  simp only [eaIndYWrite, fetchByte_atOperand h, andThen_next, zeroPageWord_afterBus h]
  change andThen (indexedDummyRead (baseOf .indy s) (indexOf .indy s) (afterBus _ (pcAfter .indy s) s)) _ = _
  rw [indexedDummyRead_afterBus (.inr (.inr rfl)) h, addressBus, penaltyBus_of_ne_read hk]; rfl

/-! ### The kinds -/

/-- R121: immediate is the read kind at PC. -/
theorem immediate_ready (body : Byte → State → State) (h : Ready s) :
    immediate body s =
      .next (body (memAt s (eaOf .imm s)) (afterBus (readBus .imm s) (pcAfter .imm s) s)) := by
  rw [immediate, fetchByte_atOperand h]; rfl

variable {ea : State → Res Addr}

theorem readKind_ready (he : Addresses .read m ea) (body : Byte → State → State) (h : Ready s) :
    readKind ea body s = .next (body (memAt s (eaOf m s)) (afterBus (readBus m s) (pcAfter m s) s)) := by
  rw [readKind, he s h, andThen_next, memRead_afterBus h, andThen_next, readBus]

theorem writeKind_ready (he : Addresses .write m ea) {value : Cpu → Byte}
    (hv : ∀ es pc, value (afterBus es pc s).cpu = value s.cpu) (h : Ready s) :
    writeKind ea value s =
      .next (afterBus (writeBus m (value s.cpu) s) (pcAfter m s) (storeAt (eaOf m s) (value s.cpu) s)) := by
  rw [writeKind, he s h, andThen_next, memWrite_afterBus h, andThen_next, hv, writeBus]

theorem rmwKind_ready (he : Addresses .rmw m ea) (f : Flags → Byte → Byte × Flags) (h : Ready s) :
    let v := memAt s (eaOf m s)
    let r := f s.cpu.flags v
    rmwKind ea f s =
      .next ((afterBus (rmwBus m r.1 s) (pcAfter m s)
        (storeAt (eaOf m s) r.1 (storeAt (eaOf m s) v s))).setFlags r.2) := by
  have hs : ∀ v, Ready (storeAt (eaOf m s) v s) := fun v => (ready_storeAt s _ v).mpr h
  simp [rmwKind, rmwTail, he s h, memRead_afterBus h, memWrite_afterBus h, memWrite_afterBus (hs _), rmwBus]

end Sys2Proof.Machine
end

section
/-! Two runs that differ in class (10_state.md R33): what the class can and cannot change. -/

namespace Sys2Proof.Machine

/-- `s` in the extended class, with the report `b`. -/
def inExtended (b : List BusAccess) (s : State) : State :=
  { s with cpu := { s.cpu with cls := .extended }, bus := b }

@[simp] theorem ready_inExtended (b : List BusAccess) (s : State) : Ready (inExtended b s) ↔ Ready s :=
  Ready.iff_of_eq rfl rfl rfl rfl rfl

theorem storeAt_inExtended (b : List BusAccess) (s : State) (a : Addr) (v : Byte) :
    storeAt a v (inExtended b s) = inExtended b (storeAt a v s) := by
  have hw : writeCell (inExtended b s) a = writeCell s a := rfl
  unfold storeAt; rw [hw]; split <;> rfl

/-! ### Operations that do not read the class

Run in both classes they answer alike, report and all. -/

/-- Both operations yield the same value, in a ready state and in that state in the extended class. -/
def AnswersAlike {α : Type} (o o' : Res α) : Prop :=
  ∃ v t, Ready t ∧ o = .next (v, t) ∧ o' = .next (v, inExtended t.bus t)

/-- Both instructions complete, in a state and in that state in the extended class. -/
def EndsAlike (o o' : Out) : Prop := ∃ t, o = .next t ∧ o' = .next (inExtended t.bus t)

theorem AnswersAlike.andThen {α : Type} {o o' : Res α} {k : α → State → Out} (h : AnswersAlike o o')
    (hk : ∀ v t, Ready t → EndsAlike (k v t) (k v (inExtended t.bus t))) :
    EndsAlike (andThen o k) (andThen o' k) := by
  obtain ⟨v, t, ht, rfl, rfl⟩ := h
  exact hk v t ht

theorem AnswersAlike.next (s : State) (h : Ready s) :
    AnswersAlike (.next ((), s)) (.next ((), inExtended s.bus s)) :=
  ⟨(), s, h, rfl, rfl⟩

theorem EndsAlike.next (s : State) : EndsAlike (.next s) (.next (inExtended s.bus s)) := ⟨s, rfl, rfl⟩

/-- Two runs that take the same way at a branch of a meaning. -/
theorem relate_ite {α : Type} {R : α → α → Prop} {c : Prop} [Decidable c] {o o' p p' : α} (ho : R o o')
    (hp : R p p') : R (if c then o else p) (if c then o' else p') := by
  split <;> assumption

section
variable {s : State} (h : Ready s)
include h

theorem memRead_alike (a : Addr) : AnswersAlike (memRead a s) (memRead a (inExtended s.bus s)) :=
  ⟨_, _, (ready_tick s _).mpr h, memRead_ready h a, memRead_ready ((ready_inExtended _ s).mpr h) a⟩

theorem dummyRead_alike (a : Addr) : AnswersAlike (dummyRead a s) (dummyRead a (inExtended s.bus s)) :=
  ⟨_, _, (ready_tick s _).mpr h, dummyRead_ready h a, dummyRead_ready ((ready_inExtended _ s).mpr h) a⟩

theorem fetchByte_alike : AnswersAlike (fetchByte s) (fetchByte (inExtended s.bus s)) :=
  ⟨_, _, by simpa using h, fetchByte_ready h, fetchByte_ready ((ready_inExtended _ s).mpr h)⟩

theorem push_alike (v : Byte) : AnswersAlike (push v s) (push v (inExtended s.bus s)) := by
  refine ⟨_, _, by simpa using h, push_ready h v, ?_⟩
  rw [push_ready ((ready_inExtended _ s).mpr h), storeAt_inExtended, ← storeAt_bus s s.cpu.sp v]
  rfl

theorem pull_alike : AnswersAlike (pull s) (pull (inExtended s.bus s)) :=
  ⟨_, _, by simpa using h, pull_ready h, pull_ready ((ready_inExtended _ s).mpr h)⟩

theorem pullFlags_alike : AnswersAlike (pullFlags s) (pullFlags (inExtended s.bus s)) := by
  obtain ⟨p, t, ht, e, e'⟩ := pull_alike h
  exact ⟨(), t.setFlags (unpackP p), by simpa using ht, by rw [pullFlags, e]; rfl,
    by rw [pullFlags, e']; rfl⟩

theorem implied_alike {body : State → State}
    (hb : ∀ t, body (inExtended t.bus t) = inExtended (body t).bus (body t)) :
    EndsAlike (implied body s) (implied body (inExtended s.bus s)) :=
  (dummyRead_alike h _).andThen fun _ t _ => ⟨body t, rfl, congrArg _ (hb t)⟩

theorem branch_alike (cond : Flags → Bool) : EndsAlike (branch cond s) (branch cond (inExtended s.bus s)) := by
  refine (fetchByte_alike h).andThen fun off t ht => relate_ite (.next t) ?_
  refine (dummyRead_alike ht _).andThen fun _ u hu => AnswersAlike.andThen ?_ fun _ w _ => ⟨_, rfl, rfl⟩
  exact relate_ite (dummyRead_alike hu _) (.next u hu)

theorem enterHandler_alike (b : Bool) (vec : Addr) :
    EndsAlike (enterHandler b vec s) (enterHandler b vec (inExtended s.bus s)) :=
  (push_alike h _).andThen fun _ _ h => (push_alike h _).andThen fun _ _ h =>
  (push_alike h _).andThen fun _ _ h => (memRead_alike ((ready_setFlags _ _).mpr h) _).andThen fun _ _ h =>
  (memRead_alike h _).andThen fun _ _ _ => ⟨_, rfl, rfl⟩

theorem returnFromHandler_alike :
    EndsAlike (returnFromHandler s) (returnFromHandler (inExtended s.bus s)) :=
  (dummyRead_alike h _).andThen fun _ _ h => (pullFlags_alike h).andThen fun _ _ h =>
  (pull_alike h).andThen fun _ _ h => (pull_alike h).andThen fun _ _ _ => ⟨_, rfl, rfl⟩

theorem execJmpAbs_alike : EndsAlike (execJmpAbs s) (execJmpAbs (inExtended s.bus s)) :=
  (fetchByte_alike h).andThen fun _ _ h => (memRead_alike h _).andThen fun _ _ _ => ⟨_, rfl, rfl⟩

theorem execJmpInd_alike : EndsAlike (execJmpInd s) (execJmpInd (inExtended s.bus s)) :=
  (fetchByte_alike h).andThen fun _ _ h => (fetchByte_alike h).andThen fun _ _ h =>
  (memRead_alike h _).andThen fun _ _ h => (memRead_alike h _).andThen fun _ _ _ => ⟨_, rfl, rfl⟩

theorem execJsr_alike : EndsAlike (execJsr s) (execJsr (inExtended s.bus s)) :=
  (fetchByte_alike h).andThen fun _ _ h => (dummyRead_alike h _).andThen fun _ _ h =>
  (push_alike h _).andThen fun _ _ h => (push_alike h _).andThen fun _ _ h =>
  (memRead_alike h _).andThen fun _ _ _ => ⟨_, rfl, rfl⟩

theorem execRts_alike : EndsAlike (execRts s) (execRts (inExtended s.bus s)) :=
  (dummyRead_alike h _).andThen fun _ _ h => (dummyRead_alike h _).andThen fun _ _ h =>
  (pull_alike h).andThen fun _ _ h => (pull_alike h).andThen fun _ _ h =>
  (dummyRead_alike h _).andThen fun _ _ _ => ⟨_, rfl, rfl⟩

theorem execPla_alike : EndsAlike (execPla s) (execPla (inExtended s.bus s)) :=
  (dummyRead_alike h _).andThen fun _ _ h => (dummyRead_alike h _).andThen fun _ _ h =>
  (pull_alike h).andThen fun _ _ _ => ⟨_, rfl, rfl⟩

theorem execPlp_alike : EndsAlike (execPlp s) (execPlp (inExtended s.bus s)) :=
  (dummyRead_alike h _).andThen fun _ _ h => (dummyRead_alike h _).andThen fun _ _ h =>
  (pullFlags_alike h).andThen fun _ _ _ => ⟨_, rfl, rfl⟩

theorem execPha_alike : EndsAlike (execPha s) (execPha (inExtended s.bus s)) :=
  (dummyRead_alike h _).andThen fun _ _ h => (push_alike h _).andThen fun _ _ _ => ⟨_, rfl, rfl⟩

theorem execPhp_alike : EndsAlike (execPhp s) (execPhp (inExtended s.bus s)) :=
  (dummyRead_alike h _).andThen fun _ _ h => (push_alike h _).andThen fun _ _ _ => ⟨_, rfl, rfl⟩

end

/-! ### The penalty cycle -/

/-- The reports `b` (legacy) and `b'` (extended) of an instruction of mode `m` from `s` are the same but for the
penalty cycle of a cross. -/
def ApartAtPenalty (m : Mode) (s : State) (b b' : List BusAccess) : Prop :=
  if crosses m s then
    ∃ before after, before.length = (if m = .indy then 3 else 2) ∧
      b = s.bus ++ before ++ readOf s (word (highByte (baseOf m s)) (lowByte (eaOf m s))) :: after ∧
      b' = s.bus ++ before ++ readOf s (pcAfter m s - 1) :: after
  else b' = b

/-- Both runs of an instruction of mode `m` from `s` complete, in states equal but for the class and the penalty
cycle in the report. -/
def EndsApartAtPenalty (m : Mode) (s : State) (o o' : Out) : Prop :=
  ∃ t b', o = .next t ∧ o' = .next (inExtended b' t) ∧ ApartAtPenalty m s t.bus b'

theorem EndsAlike.apart {m : Mode} {s : State} {o o' : Out} (h : EndsAlike o o') (hm : crosses m s = false) :
    EndsApartAtPenalty m s o o' := by
  obtain ⟨t, e, e'⟩ := h
  exact ⟨t, t.bus, e, e', by simp [ApartAtPenalty, hm]⟩

/-- The accesses before the penalty cycle of an indexed mode (R125, R126, R128). -/
def beforePenalty (m : Mode) (s : State) : List BusAccess :=
  if m = .indy then [readOf s s.cpu.pc, readOf s (zext (byte1 s)), readOf s (zext (byte1 s + 1))]
  else [readOf s s.cpu.pc, readOf s (s.cpu.pc + 1)]

theorem length_beforePenalty (m : Mode) (s : State) :
    (beforePenalty m s).length = if m = .indy then 3 else 2 := by
  unfold beforePenalty; split <;> rfl

variable {m : Mode} {s : State} {k : AccessKind}

theorem addressBus_of_crosses (hc : crosses m s = true) :
    addressBus k m s = beforePenalty m s ++ [readOf s (penaltyAddr m s)] := by
  have hp : penaltyBus k m s = [readOf s (penaltyAddr m s)] := by simp [penaltyBus, hc]
  cases m with
  | absx | absy | indy => rw [addressBus, hp]; rfl
  | imp | acc | imm | zp | zpx | zpy | abs | indx | ind | rel => cases hc

/-- Without a cross the accesses do not depend on the class. -/
theorem addressBus_inExtended (hc : crosses m s = false) (b : List BusAccess) :
    addressBus k m (inExtended b s) = addressBus k m s := by
  have hc' : crosses m (inExtended b s) = false := hc
  have hp : penaltyBus k m (inExtended b s) = penaltyBus k m s := by
    simp only [penaltyBus, penaltyAddr, hc, hc']; rfl
  cases m with
  | absx | absy | indy => exact congrArg (_ ++ ·) hp
  | imp | acc | imm | zp | zpx | zpy | abs | indx | ind | rel => rfl

theorem length_addressBus_inExtended (b : List BusAccess) :
    (addressBus k m (inExtended b s)).length = (addressBus k m s).length := by
  cases hc : crosses m s
  · rw [addressBus_inExtended hc]
  · have hc' : crosses m (inExtended b s) = true := hc
    simp [addressBus_of_crosses hc, addressBus_of_crosses hc', length_beforePenalty]

/-- The two reports up to the operand, with the same accesses `rest` after it. -/
theorem apartAtPenalty_addressBus (hl : s.cpu.cls = .legacy) (rest : List BusAccess) :
    ApartAtPenalty m s (s.bus ++ (addressBus k m s ++ rest))
      (s.bus ++ (addressBus k m (inExtended s.bus s) ++ rest)) := by
  unfold ApartAtPenalty
  split
  · next hc =>
    have hc' : crosses m (inExtended s.bus s) = true := hc
    refine ⟨beforePenalty m s, rest, length_beforePenalty m s, ?_, ?_⟩
    · simp [addressBus_of_crosses hc, penaltyAddr, hc, hl]
    · rw [addressBus_of_crosses hc', penaltyAddr, if_pos hc']
      simp only [List.append_assoc]; rfl
  · next hc => rw [addressBus_inExtended (by simpa using hc)]

/-- A run's accesses count alike in both classes. -/
theorem afterBus_inExtended {es es' : List BusAccess} (hn : es'.length = es.length) (pc : Addr)
    (b : List BusAccess) (t : State) :
    afterBus es' pc (inExtended b t) = inExtended (b ++ es') (afterBus es pc t) := by
  simp [afterBus, inExtended, hn]

/-! ### The kinds in both classes -/

/-- An instruction's body reads neither the class nor the report, and changes neither. -/
def ClassBlind (body : State → State) : Prop :=
  ∀ b t, body (inExtended b t) = inExtended b (body t) ∧ (body t).bus = t.bus

/-- The end of every operand kind: the accesses from the operand on do not see the class. -/
theorem endsApart_of_report {o o' : Out} {body : State → State} (hb : ClassBlind body)
    (hl : s.cpu.cls = .legacy) {rest : List BusAccess} {u : State} (hu : u.bus = s.bus)
    (ho : o = .next (body (afterBus (addressBus k m s ++ rest) (pcAfter m s) u)))
    (ho' : o' = .next (body (afterBus (addressBus k m (inExtended s.bus s) ++ rest) (pcAfter m s)
      (inExtended s.bus u)))) :
    EndsApartAtPenalty m s o o' := by
  have hn : (addressBus k m (inExtended s.bus s) ++ rest).length = (addressBus k m s ++ rest).length := by
    simp [length_addressBus_inExtended]
  refine ⟨_, s.bus ++ (addressBus k m (inExtended s.bus s) ++ rest), ho, ?_, ?_⟩
  · rw [ho', afterBus_inExtended hn, (hb _ _).1]
  · rw [(hb [] _).2, afterBus_bus, hu]
    exact apartAtPenalty_addressBus hl rest

section
variable (h : Ready s) (hl : s.cpu.cls = .legacy)
include h hl

theorem immediate_apart {body : Byte → State → State} (hb : ∀ v, ClassBlind (body v)) :
    EndsApartAtPenalty .imm s (immediate body s) (immediate body (inExtended s.bus s)) :=
  endsApart_of_report (k := .read) (hb _) hl rfl (immediate_ready body h)
    (immediate_ready body ((ready_inExtended _ s).mpr h))

variable {ea : State → Res Addr}

theorem readKind_apart (he : Addresses .read m ea) {body : Byte → State → State}
    (hb : ∀ v, ClassBlind (body v)) :
    EndsApartAtPenalty m s (readKind ea body s) (readKind ea body (inExtended s.bus s)) :=
  endsApart_of_report (hb _) hl rfl (readKind_ready he body h)
    (readKind_ready he body ((ready_inExtended _ s).mpr h))

theorem writeKind_apart (he : Addresses .write m ea) {value : Cpu → Byte}
    (hv : ∀ es pc t, value (afterBus es pc t).cpu = value t.cpu)
    (hv' : value (inExtended s.bus s).cpu = value s.cpu) :
    EndsApartAtPenalty m s (writeKind ea value s) (writeKind ea value (inExtended s.bus s)) := by
  refine endsApart_of_report (body := id) (fun _ _ => ⟨rfl, rfl⟩) hl (storeAt_bus s _ _)
    (writeKind_ready he (fun es pc => hv es pc s) h) ?_
  rw [writeKind_ready he (fun es pc => hv es pc _) ((ready_inExtended _ s).mpr h), hv', storeAt_inExtended]
  rfl

theorem rmwKind_apart (he : Addresses .rmw m ea) (f : Flags → Byte → Byte × Flags) :
    EndsApartAtPenalty m s (rmwKind ea f s) (rmwKind ea f (inExtended s.bus s)) := by
  refine endsApart_of_report (body := (·.setFlags (f s.cpu.flags (memAt s (eaOf m s))).2))
    (fun _ _ => ⟨rfl, rfl⟩) hl ?_ (rmwKind_ready he f h) ?_
  · simp
  · rw [rmwKind_ready he f ((ready_inExtended _ s).mpr h)]
    simp only [storeAt_inExtended]
    rfl

end

end Sys2Proof.Machine
end

section
/-! O56, instruction by instruction. -/

namespace Sys2Proof.Machine

variable {s : State}

theorem exec_apart (i : Instr) (h : Ready s) (hl : s.cpu.cls = .legacy) :
    EndsApartAtPenalty (modeOf i) s (exec i s) (exec i (inExtended s.bus s)) := by
  cases i with
  | ldaImm | ldxImm | ldyImm | adcImm | sbcImm | cmpImm | cpxImm | cpyImm | andImm | oraImm | eorImm =>
    exact immediate_apart h hl fun _ _ _ => ⟨rfl, rfl⟩
  | ldaZp | ldxZp | ldyZp | adcZp | sbcZp | cmpZp | cpxZp | cpyZp | andZp | oraZp | eorZp | bitZp =>
    exact readKind_apart h hl addresses_zp fun _ _ _ => ⟨rfl, rfl⟩
  | ldaZpX | ldyZpX | adcZpX | sbcZpX | cmpZpX | andZpX | oraZpX | eorZpX =>
    exact readKind_apart h hl addresses_zpx fun _ _ _ => ⟨rfl, rfl⟩
  | ldxZpY => exact readKind_apart h hl addresses_zpy fun _ _ _ => ⟨rfl, rfl⟩
  | ldaAbs | ldxAbs | ldyAbs | adcAbs | sbcAbs | cmpAbs | cpxAbs | cpyAbs | andAbs | oraAbs | eorAbs | bitAbs =>
    exact readKind_apart h hl addresses_abs fun _ _ _ => ⟨rfl, rfl⟩
  | ldaAbsX | ldyAbsX | adcAbsX | sbcAbsX | cmpAbsX | andAbsX | oraAbsX | eorAbsX =>
    exact readKind_apart h hl addresses_absx_read fun _ _ _ => ⟨rfl, rfl⟩
  | ldaAbsY | ldxAbsY | adcAbsY | sbcAbsY | cmpAbsY | andAbsY | oraAbsY | eorAbsY =>
    exact readKind_apart h hl addresses_absy_read fun _ _ _ => ⟨rfl, rfl⟩
  | ldaIndX | adcIndX | sbcIndX | cmpIndX | andIndX | oraIndX | eorIndX =>
    exact readKind_apart h hl addresses_indx fun _ _ _ => ⟨rfl, rfl⟩
  | ldaIndY | adcIndY | sbcIndY | cmpIndY | andIndY | oraIndY | eorIndY =>
    exact readKind_apart h hl addresses_indy_read fun _ _ _ => ⟨rfl, rfl⟩
  | staZp | stxZp | styZp => exact writeKind_apart h hl addresses_zp (fun _ _ _ => rfl) rfl
  | staZpX | styZpX => exact writeKind_apart h hl addresses_zpx (fun _ _ _ => rfl) rfl
  | stxZpY => exact writeKind_apart h hl addresses_zpy (fun _ _ _ => rfl) rfl
  | staAbs | stxAbs | styAbs => exact writeKind_apart h hl addresses_abs (fun _ _ _ => rfl) rfl
  | staAbsX => exact writeKind_apart h hl (addresses_absx_write nofun) (fun _ _ _ => rfl) rfl
  | staAbsY => exact writeKind_apart h hl (addresses_absy_write nofun) (fun _ _ _ => rfl) rfl
  | staIndX => exact writeKind_apart h hl addresses_indx (fun _ _ _ => rfl) rfl
  | staIndY => exact writeKind_apart h hl (addresses_indy_write nofun) (fun _ _ _ => rfl) rfl
  | incZp | decZp | aslZp | lsrZp | rolZp | rorZp => exact rmwKind_apart h hl addresses_zp _
  | incZpX | decZpX | aslZpX | lsrZpX | rolZpX | rorZpX => exact rmwKind_apart h hl addresses_zpx _
  | incAbs | decAbs | aslAbs | lsrAbs | rolAbs | rorAbs => exact rmwKind_apart h hl addresses_abs _
  | incAbsX | decAbsX | aslAbsX | lsrAbsX | rolAbsX | rorAbsX =>
    exact rmwKind_apart h hl (addresses_absx_write nofun) _
  | tax | tay | txa | tya | tsx | txs | inx | iny | dex | dey | aslA | lsrA | rolA | rorA | nop | clc | sec
  | cli | sei | cld | sed | clv => exact (implied_alike h fun _ => rfl).apart rfl
  | bpl => exact (branch_alike h (!·.n)).apart rfl
  | bvc => exact (branch_alike h (!·.v)).apart rfl
  | bcc => exact (branch_alike h (!·.c)).apart rfl
  | bne => exact (branch_alike h (!·.z)).apart rfl
  | bmi => exact (branch_alike h (·.n)).apart rfl
  | bvs => exact (branch_alike h (·.v)).apart rfl
  | bcs => exact (branch_alike h (·.c)).apart rfl
  | beq => exact (branch_alike h (·.z)).apart rfl
  | jmpAbs => exact (execJmpAbs_alike h).apart rfl
  | jmpInd => exact (execJmpInd_alike h).apart rfl
  | jsr => exact (execJsr_alike h).apart rfl
  | rts => exact (execRts_alike h).apart rfl
  | brk => exact ((fetchByte_alike h).andThen fun _ _ h => enterHandler_alike h true irqVector).apart rfl
  | rti => exact ((dummyRead_alike h _).andThen fun _ _ h => returnFromHandler_alike h).apart rfl
  | pha => exact (execPha_alike h).apart rfl
  | php => exact (execPhp_alike h).apart rfl
  | pla => exact (execPla_alike h).apart rfl
  | plp => exact (execPlp_alike h).apart rfl

/-- Settles O56: outside the indexed modes no operation reads the class; in them both runs have the closed form
of the mode, whose accesses differ in `penaltyAddr` alone. -/
theorem theClassOnlyMovesTheIndexedDummyRead : Obligations.TheClassOnlyMovesTheIndexedDummyRead :=
  fun i _ h hl => exec_apart i h hl

end Sys2Proof.Machine
end

section
/-! What a completed step keeps (10_state.md R32, R33, R36): each kind of start keeps it, and `Advance` carries it
to the end of the step. -/

namespace Sys2Proof.Machine

theorem State.wf_iff (s : State) : s.wf = true ↔ highByte s.cpu.sp = 0x01 ∧ s.host.wf = true := by
  simp [State.wf]

/-- A step is a start, which clears the report and touches neither the CPU nor the parameters, and an advance. -/
theorem step_advance {s t : State} (h : step s = .next t) :
    ∃ u, Start s u ∧ Advance u t := by
  obtain ⟨u, hu, hstep⟩ := step_from_start h
  exact ⟨u, hu, hstep advance_closed⟩

namespace Start

variable {s u : State} (h : Start s u)
include h

theorem cpu_eq : u.cpu = s.cpu := by cases h <;> rfl

theorem params_eq : u.params = s.params := by cases h <;> rfl

theorem bus_eq : u.bus = [] := by cases h <;> rfl

/-- A start changes at most the NMI line, which the canonical form does not see. -/
theorem host_wf : u.host.wf = s.host.wf := by cases h <;> rfl

end Start

/-- Settles O15: a start keeps the CPU and the tables, and everything an instruction or an entry does keeps SP in
page 1 and canonical host state canonical. -/
theorem everyStepKeepsTheStateWellFormed : Obligations.EveryStepKeepsTheStateWellFormed := by
  intro s t hs h
  obtain ⟨u, hu, ha⟩ := step_advance h
  obtain ⟨hsp, hhost⟩ := s.wf_iff.mp hs
  rw [← hu.cpu_eq] at hsp
  rw [← hu.host_wf] at hhost
  exact t.wf_iff.mpr ⟨ha.spPage hsp, ha.hostWf hhost⟩

/-- Settles O17: a start clears the report, and from there cycles and report grow together. -/
theorem everyStepCountsItsBusAccesses : Obligations.EveryStepCountsItsBusAccesses := by
  intro s t h
  obtain ⟨u, hu, ha⟩ := step_advance h
  obtain ⟨es, hbus, hcycles⟩ := ha.counts
  rw [hcycles, hbus, hu.cpu_eq, hu.bus_eq, List.nil_append]

/-- Settles O18: neither a start nor an advance writes the class or a parameter. -/
theorem noStepChangesTheClassOrAParameter : Obligations.NoStepChangesTheClassOrAParameter := by
  intro s t h
  obtain ⟨u, hu, ha⟩ := step_advance h
  exact ⟨by rw [ha.cls, hu.cpu_eq], by rw [ha.params, hu.params_eq]⟩

end Sys2Proof.Machine
end

section
/-! The instructions of no shared kind (R114, R120), for a relation closed under accesses: the jumps and the stack
instructions (44_control.md R300 to R305, 45_stack_flags.md R330 to R333). -/

namespace Sys2Proof.Machine

variable {R : State → State → Prop} {s t : State}

namespace ReadClosed

variable (C : ReadClosed R)
include C

theorem execJmpAbs (h : execJmpAbs s = .next t) : R s t := by
  simp only [Machine.execJmpAbs, andThen_eq_next, Host.Outcome.next.injEq] at h
  obtain ⟨_, _, h₁, _, _, h₂, rfl⟩ := h
  exact C.trans (C.trans (C.fetchByte h₁) (C.memRead h₂)) (C.setPc _ _)

theorem execJmpInd (h : execJmpInd s = .next t) : R s t := by
  simp only [Machine.execJmpInd, andThen_eq_next, Host.Outcome.next.injEq] at h
  obtain ⟨_, _, h₁, _, _, h₂, _, _, h₃, _, _, h₄, rfl⟩ := h
  exact C.trans (C.trans (C.trans (C.trans (C.fetchByte h₁) (C.fetchByte h₂)) (C.memRead h₃))
    (C.memRead h₄)) (C.setPc _ _)

section
variable (hsp : ∀ s v, R s (s.setSp (word 0x01 v)))
include hsp

theorem execRts (h : execRts s = .next t) : R s t := by
  simp only [Machine.execRts, andThen_eq_next, Host.Outcome.next.injEq] at h
  obtain ⟨_, _, h₁, _, _, h₂, _, _, h₃, _, _, h₄, _, _, h₅, rfl⟩ := h
  exact C.trans (C.trans (C.trans (C.trans (C.trans (C.dummyRead h₁) (C.dummyRead h₂)) (C.pull hsp h₃))
    (C.pull hsp h₄)) (C.dummyRead h₅)) (C.setPc _ _)

theorem execPla (ha : ∀ v s, R s (assignA v s)) (h : execPla s = .next t) : R s t := by
  simp only [Machine.execPla, andThen_eq_next, Host.Outcome.next.injEq] at h
  obtain ⟨_, _, h₁, _, _, h₂, v, u, h₃, rfl⟩ := h
  exact C.trans (C.trans (C.trans (C.dummyRead h₁) (C.dummyRead h₂)) (C.pull hsp h₃)) (ha v u)

theorem execPlp (hf : ∀ s f, R s (s.setFlags f)) (h : execPlp s = .next t) : R s t := by
  simp only [Machine.execPlp, andThen_eq_next, Host.Outcome.next.injEq] at h
  obtain ⟨_, _, h₁, _, _, h₂, _, _, h₃, rfl⟩ := h
  exact C.trans (C.trans (C.dummyRead h₁) (C.dummyRead h₂)) (C.pullFlags hsp hf h₃)

theorem execRti (hf : ∀ s f, R s (s.setFlags f)) (h : execRti s = .next t) : R s t := by
  simp only [Machine.execRti, andThen_eq_next] at h
  obtain ⟨_, _, h₁, h₂⟩ := h
  exact C.trans (C.dummyRead h₁) (C.returnFromHandler hsp hf h₂)

end

end ReadClosed

namespace BusClosed

variable (C : BusClosed R) (hsp : ∀ s v, R s (s.setSp (word 0x01 v)))
include C hsp

theorem execJsr (h : execJsr s = .next t) : R s t := by
  simp only [Machine.execJsr, andThen_eq_next, Host.Outcome.next.injEq] at h
  obtain ⟨_, _, h₁, _, _, h₂, _, _, h₃, _, _, h₄, _, _, h₅, rfl⟩ := h
  exact C.trans (C.trans (C.trans (C.trans (C.trans (C.fetchByte h₁) (C.dummyRead h₂)) (C.push hsp h₃))
    (C.push hsp h₄)) (C.memRead h₅)) (C.setPc _ _)

theorem execPha (h : execPha s = .next t) : R s t := by
  simp only [Machine.execPha, andThen_eq_next, Host.Outcome.next.injEq] at h
  obtain ⟨_, _, h₁, _, _, h₂, rfl⟩ := h
  exact C.trans (C.dummyRead h₁) (C.push hsp h₂)

theorem execPhp (h : execPhp s = .next t) : R s t := by
  simp only [Machine.execPhp, andThen_eq_next, Host.Outcome.next.injEq] at h
  obtain ⟨_, _, h₁, _, _, h₂, rfl⟩ := h
  exact C.trans (C.dummyRead h₁) (C.push hsp h₂)

theorem execBrk (hi : ∀ s, R s (s.setFlags (s.cpu.flags.setI true))) (h : execBrk s = .next t) :
    R s t := by
  simp only [Machine.execBrk, andThen_eq_next] at h
  obtain ⟨_, _, h₁, h₂⟩ := h
  exact C.trans (C.fetchByte h₁) (C.enterHandler hsp hi h₂)

end BusClosed

end Sys2Proof.Machine
end

section
/-! The pipeline of each mode as a function of the mode (40_pipelines.md R121 to R128), so that one rule serves
all forms of a mnemonic. -/

namespace Sys2Proof.Machine

/-- The pipeline by which an instruction of kind `k` and mode `m` finds its effective address. As in `eaOf`, PC
stands for the modes that have none. -/
def pipeline (k : AccessKind) (m : Mode) : State → Res Addr :=
  match m with
  | .zp => eaZp
  | .zpx => eaZpIndexed (·.x)
  | .zpy => eaZpIndexed (·.y)
  | .abs => eaAbs
  | .absx => if k = .read then eaAbsIndexedRead (·.x) else eaAbsIndexedWrite (·.x)
  | .absy => if k = .read then eaAbsIndexedRead (·.y) else eaAbsIndexedWrite (·.y)
  | .indx => eaIndX
  | .indy => if k = .read then eaIndYRead else eaIndYWrite
  | .imp | .acc | .imm | .rel | .ind => fun s => .next (s.cpu.pc, s)

/-- The read kind in mode `m`, immediate among the modes (R114, R121). -/
def readIn (m : Mode) (body : Byte → State → State) : State → Out :=
  if m = .imm then immediate body else readKind (pipeline .read m) body

variable {R : State → State → Prop} {s t : State}

theorem ReadClosed.pipeline (C : ReadClosed R) (k : AccessKind) (m : Mode) {a : Addr}
    (h : pipeline k m s = .next (a, t)) : R s t := by
  cases m with
  | zp => exact C.eaZp h
  | zpx | zpy => exact C.eaZpIndexed h
  | abs => exact C.eaAbs h
  | absx | absy =>
    cases k with
    | read => exact C.eaAbsIndexedRead h
    | write | rmw => exact C.eaAbsIndexedWrite h
  | indx => exact C.eaIndX h
  | indy =>
    cases k with
    | read => exact C.eaIndYRead h
    | write | rmw => exact C.eaIndYWrite h
  | imp | acc | imm | rel | ind =>
    simp only [Machine.pipeline, Host.Outcome.next.injEq, Prod.mk.injEq] at h
    exact h.2 ▸ C.refl s

theorem ReadClosed.readIn (C : ReadClosed R) {m : Mode} {body : Byte → State → State}
    (hb : ∀ v s, R s (body v s)) (h : readIn m body s = .next t) : R s t := by
  unfold Machine.readIn at h
  split at h
  · exact C.immediate hb h
  · exact C.readKind (C.pipeline .read m) hb h

end Sys2Proof.Machine
end

section
/-! What an instruction may write (10_state.md R20 to R25): accesses and changes of PC write no register and no
flag, so an instruction writes what its body and its stack operations do. -/

namespace Sys2Proof.Machine

/-- `g` is `f` but for the flags that `ins` writes (10_state.md R25). -/
structure WritesOnlyFlags (ins : Instr) (f g : Flags) : Prop where
  n : ins ∉ nzWriters → g.n = f.n
  z : ins ∉ nzWriters → g.z = f.z
  v : ins ∉ vWriters → g.v = f.v
  d : ins ∉ dWriters → g.d = f.d
  i : ins ∉ iWriters → g.i = f.i
  c : ins ∉ cWriters → g.c = f.c

/-- The registers and flags of `t` are those of `s` but for what `ins` writes (10_state.md R20 to R25). -/
structure WritesOnly (ins : Instr) (s t : State) : Prop where
  a : ins ∉ aWriters → t.cpu.a = s.cpu.a
  x : ins ∉ xWriters → t.cpu.x = s.cpu.x
  y : ins ∉ yWriters → t.cpu.y = s.cpu.y
  sp : ins ∉ spWriters → t.cpu.sp = s.cpu.sp
  flags : WritesOnlyFlags ins s.cpu.flags t.cpu.flags

variable {ins : Instr}

/-! ### Flags -/

namespace WritesOnlyFlags

variable {f g k : Flags}

theorem refl (f : Flags) : WritesOnlyFlags ins f f :=
  ⟨fun _ => rfl, fun _ => rfl, fun _ => rfl, fun _ => rfl, fun _ => rfl, fun _ => rfl⟩

theorem trans (h : WritesOnlyFlags ins f g) (h' : WritesOnlyFlags ins g k) : WritesOnlyFlags ins f k where
  n w := (h'.n w).trans (h.n w)
  z w := (h'.z w).trans (h.z w)
  v w := (h'.v w).trans (h.v w)
  d w := (h'.d w).trans (h.d w)
  i w := (h'.i w).trans (h.i w)
  c w := (h'.c w).trans (h.c w)

theorem setV (hv : ins ∈ vWriters) (f : Flags) (b : Bool) : WritesOnlyFlags ins f (f.setV b) :=
  { refl f with v := absurd hv }

theorem setD (hd : ins ∈ dWriters) (f : Flags) (b : Bool) : WritesOnlyFlags ins f (f.setD b) :=
  { refl f with d := absurd hd }

theorem setI (hi : ins ∈ iWriters) (f : Flags) (b : Bool) : WritesOnlyFlags ins f (f.setI b) :=
  { refl f with i := absurd hi }

theorem setC (hc : ins ∈ cWriters) (f : Flags) (b : Bool) : WritesOnlyFlags ins f (f.setC b) :=
  { refl f with c := absurd hc }

section
variable (hnz : ins ∈ nzWriters)
include hnz

theorem setNZ (f : Flags) (v : Byte) : WritesOnlyFlags ins f (f.setNZ v) :=
  { refl f with n := absurd hnz, z := absurd hnz }

theorem bitFlags (hv : ins ∈ vWriters) (f : Flags) (a m : Byte) : WritesOnlyFlags ins f (bitFlags f a m) :=
  { refl f with n := absurd hnz, z := absurd hnz, v := absurd hv }

variable (hc : ins ∈ cWriters)
include hc

theorem compareFlags (f : Flags) (l r : Byte) : WritesOnlyFlags ins f (compareFlags f l r) :=
  { refl f with n := absurd hnz, z := absurd hnz, c := absurd hc }

/-- The flags of the four shifts and rotates (43_logic_shift.md R264 to R267). -/
theorem setC_setNZ (f : Flags) (b : Bool) (v : Byte) : WritesOnlyFlags ins f ((f.setC b).setNZ v) :=
  (setC hc f b).trans (setNZ hnz _ v)

variable (hv : ins ∈ vWriters)
include hv

/-- The flags of the binary path of ADC and SBC (42_arithmetic.md R230, R232). -/
theorem setNZ_setV_setC (f : Flags) (v : Byte) (o c : Bool) :
    WritesOnlyFlags ins f (((f.setNZ v).setV o).setC c) :=
  ((setNZ hnz f v).trans (setV hv _ o)).trans (setC hc _ c)

/-- The decimal path replaces C alone (R231). -/
theorem addWithCarry (dc : AdcDecCarry) (f : Flags) (a v : Byte) :
    WritesOnlyFlags ins f (addWithCarry dc f a v).2 := by
  have binary := setNZ_setV_setC hnz hc hv f
  unfold Machine.addWithCarry
  split
  · cases dc with
    | decimal => exact (binary _ _ _).trans (setC hc _ _)
    | binary => exact binary _ _ _
  · exact binary _ _ _

theorem subtractWithBorrow (f : Flags) (a v : Byte) :
    WritesOnlyFlags ins f (subtractWithBorrow f a v).2 :=
  setNZ_setV_setC hnz hc hv f _ _ _

end

end WritesOnlyFlags

/-! ### Registers -/

namespace WritesOnly

variable {s t u : State}

theorem trans (h : WritesOnly ins s t) (h' : WritesOnly ins t u) : WritesOnly ins s u where
  a w := (h'.a w).trans (h.a w)
  x w := (h'.x w).trans (h.x w)
  y w := (h'.y w).trans (h.y w)
  sp w := (h'.sp w).trans (h.sp w)
  flags := h.flags.trans h'.flags

theorem setFlags {f : Flags} (hf : WritesOnlyFlags ins s.cpu.flags f) : WritesOnly ins s (s.setFlags f) :=
  ⟨fun _ => rfl, fun _ => rfl, fun _ => rfl, fun _ => rfl, hf⟩

/-- PLP and RTI write all six flags (45_stack_flags.md R333, 44_control.md R305). -/
theorem setAnyFlags (hnz : ins ∈ nzWriters) (hv : ins ∈ vWriters) (hd : ins ∈ dWriters)
    (hi : ins ∈ iWriters) (hc : ins ∈ cWriters) (s : State) (f : Flags) : WritesOnly ins s (s.setFlags f) :=
  setFlags ⟨absurd hnz, absurd hnz, absurd hv, absurd hd, absurd hi, absurd hc⟩

theorem refl (s : State) : WritesOnly ins s s := setFlags (.refl _)

theorem setA (ha : ins ∈ aWriters) (s : State) (v : Byte) : WritesOnly ins s (s.setA v) :=
  { refl s with a := absurd ha }

theorem setX (hx : ins ∈ xWriters) (s : State) (v : Byte) : WritesOnly ins s (s.setX v) :=
  { refl s with x := absurd hx }

theorem setY (hy : ins ∈ yWriters) (s : State) (v : Byte) : WritesOnly ins s (s.setY v) :=
  { refl s with y := absurd hy }

theorem setSp (hsp : ins ∈ spWriters) (s : State) (v : Byte) : WritesOnly ins s (s.setSp (word 0x01 v)) :=
  { refl s with sp := absurd hsp }

section
variable (hnz : ins ∈ nzWriters)
include hnz

theorem assignA (ha : ins ∈ aWriters) (v : Byte) (s : State) : WritesOnly ins s (assignA v s) :=
  (setA ha s v).trans (setFlags (.setNZ hnz _ v))

theorem assignX (hx : ins ∈ xWriters) (v : Byte) (s : State) : WritesOnly ins s (assignX v s) :=
  (setX hx s v).trans (setFlags (.setNZ hnz _ v))

theorem assignY (hy : ins ∈ yWriters) (v : Byte) (s : State) : WritesOnly ins s (assignY v s) :=
  (setY hy s v).trans (setFlags (.setNZ hnz _ v))

variable (hc : ins ∈ cWriters)
include hc

theorem compareBody (reg : Cpu → Byte) (v : Byte) (s : State) : WritesOnly ins s (compareBody reg v s) :=
  setFlags (.compareFlags hnz hc _ _ _)

variable (ha : ins ∈ aWriters) (hv : ins ∈ vWriters)
include ha hv

theorem adcBody (v : Byte) (s : State) : WritesOnly ins s (adcBody v s) :=
  (setA ha s _).trans (setFlags (.addWithCarry hnz hc hv _ _ _ v))

theorem sbcBody (v : Byte) (s : State) : WritesOnly ins s (sbcBody v s) :=
  (setA ha s _).trans (setFlags (.subtractWithBorrow hnz hc hv _ _ v))

end

/-- The accumulator forms of the shifts and rotates. -/
theorem onAccumulator (ha : ins ∈ aWriters) {f : Flags → Byte → Byte × Flags}
    (hf : ∀ g v, WritesOnlyFlags ins g (f g v).2) (s : State) : WritesOnly ins s (onAccumulator f s) :=
  (setA ha s _).trans (setFlags (hf _ _))

theorem ofHosted (h : Hosted s t) : WritesOnly ins s t := by
  obtain ⟨_, -, rfl⟩ := h
  exact { refl s with }

theorem tick (s : State) (e : BusAccess) : WritesOnly ins s (s.tick e) := { refl s with }

theorem busClosed (ins : Instr) : BusClosed (WritesOnly ins) where
  refl := refl
  trans := trans
  setPc s _ := { refl s with }
  memRead h := by
    obtain ⟨u, hu, rfl⟩ := memRead_next h
    exact (ofHosted hu).trans (tick u _)
  memWrite h := by
    obtain ⟨u, hu, rfl⟩ := memWrite_next h
    exact (ofHosted hu).trans (tick u _)

/-! ### The kinds, the instruction's mode given -/

theorem readIn {body : Byte → State → State} (hb : ∀ v s, WritesOnly ins s (body v s))
    (h : readIn (modeOf ins) body s = .next t) : WritesOnly ins s t :=
  (busClosed ins).toReadClosed.readIn hb h

theorem writeKind {value : Cpu → Byte}
    (h : writeKind (pipeline .write (modeOf ins)) value s = .next t) : WritesOnly ins s t :=
  (busClosed ins).writeKind ((busClosed ins).pipeline _ _) h

theorem rmwKind {f : Flags → Byte → Byte × Flags} (hf : ∀ g v, WritesOnlyFlags ins g (f g v).2)
    (h : rmwKind (pipeline .rmw (modeOf ins)) f s = .next t) : WritesOnly ins s t :=
  (busClosed ins).rmwKind ((busClosed ins).pipeline _ _) (fun _ _ => setFlags (hf _ _)) h

theorem implied {body : State → State} (hb : ∀ s, WritesOnly ins s (body s))
    (h : implied body s = .next t) : WritesOnly ins s t :=
  (busClosed ins).implied hb h

theorem branch (cond : Flags → Bool) (h : branch cond s = .next t) : WritesOnly ins s t :=
  (busClosed ins).branch h

end WritesOnly

/-! ### Every instruction -/

theorem exec_writesOnly {s t : State} (h : exec ins s = .next t) : WritesOnly ins s t := by
  have C := WritesOnly.busClosed ins
  cases ins with
  | ldaImm | ldaZp | ldaZpX | ldaAbs | ldaAbsX | ldaAbsY | ldaIndX | ldaIndY =>
    exact .readIn (.assignA (by decide) (by decide)) h
  | andImm | andZp | andZpX | andAbs | andAbsX | andAbsY | andIndX | andIndY
  | oraImm | oraZp | oraZpX | oraAbs | oraAbsX | oraAbsY | oraIndX | oraIndY
  | eorImm | eorZp | eorZpX | eorAbs | eorAbsX | eorAbsY | eorIndX | eorIndY =>
    exact .readIn (fun _ _ => .assignA (by decide) (by decide) _ _) h
  | ldxImm | ldxZp | ldxZpY | ldxAbs | ldxAbsY => exact .readIn (.assignX (by decide) (by decide)) h
  | ldyImm | ldyZp | ldyZpX | ldyAbs | ldyAbsX => exact .readIn (.assignY (by decide) (by decide)) h
  | adcImm | adcZp | adcZpX | adcAbs | adcAbsX | adcAbsY | adcIndX | adcIndY =>
    exact .readIn (.adcBody (by decide) (by decide) (by decide) (by decide)) h
  | sbcImm | sbcZp | sbcZpX | sbcAbs | sbcAbsX | sbcAbsY | sbcIndX | sbcIndY =>
    exact .readIn (.sbcBody (by decide) (by decide) (by decide) (by decide)) h
  | cmpImm | cmpZp | cmpZpX | cmpAbs | cmpAbsX | cmpAbsY | cmpIndX | cmpIndY
  | cpxImm | cpxZp | cpxAbs | cpyImm | cpyZp | cpyAbs =>
    exact .readIn (.compareBody (by decide) (by decide) _) h
  | bitZp | bitAbs => exact .readIn (fun _ _ => .setFlags (.bitFlags (by decide) (by decide) _ _ _)) h
  | staZp | staZpX | staAbs | staAbsX | staAbsY | staIndX | staIndY
  | stxZp | stxZpY | stxAbs | styZp | styZpX | styAbs => exact .writeKind h
  | incZp | incZpX | incAbs | incAbsX | decZp | decZpX | decAbs | decAbsX =>
    exact .rmwKind (fun f _ => .setNZ (by decide) f _) h
  | aslZp | aslZpX | aslAbs | aslAbsX | lsrZp | lsrZpX | lsrAbs | lsrAbsX
  | rolZp | rolZpX | rolAbs | rolAbsX | rorZp | rorZpX | rorAbs | rorAbsX =>
    exact .rmwKind (fun f _ => .setC_setNZ (by decide) (by decide) f _ _) h
  | aslA | lsrA | rolA | rorA =>
    exact .implied (.onAccumulator (by decide) fun f _ => .setC_setNZ (by decide) (by decide) f _ _) h
  | txa | tya => exact .implied (fun _ => .assignA (by decide) (by decide) _ _) h
  | tax | tsx | inx | dex => exact .implied (fun _ => .assignX (by decide) (by decide) _ _) h
  | tay | iny | dey => exact .implied (fun _ => .assignY (by decide) (by decide) _ _) h
  | txs => exact .implied (fun s => .setSp (by decide) s _) h
  | clc | sec => exact .implied (fun _ => .setFlags (.setC (by decide) _ _)) h
  | cli | sei => exact .implied (fun _ => .setFlags (.setI (by decide) _ _)) h
  | cld | sed => exact .implied (fun _ => .setFlags (.setD (by decide) _ _)) h
  | clv => exact .implied (fun _ => .setFlags (.setV (by decide) _ _)) h
  | nop => exact .implied .refl h
  | bpl => exact .branch (!·.n) h
  | bvc => exact .branch (!·.v) h
  | bcc => exact .branch (!·.c) h
  | bne => exact .branch (!·.z) h
  | bmi | bvs | bcs | beq => exact .branch _ h
  | jmpAbs => exact C.execJmpAbs h
  | jmpInd => exact C.execJmpInd h
  | jsr => exact C.execJsr (.setSp (by decide)) h
  | rts => exact C.execRts (.setSp (by decide)) h
  | brk => exact C.execBrk (.setSp (by decide)) (fun _ => .setFlags (.setI (by decide) _ _)) h
  | pha => exact C.execPha (.setSp (by decide)) h
  | php => exact C.execPhp (.setSp (by decide)) h
  | pla => exact C.execPla (.setSp (by decide)) (.assignA (by decide) (by decide)) h
  | plp =>
    exact C.execPlp (.setSp (by decide))
      (.setAnyFlags (by decide) (by decide) (by decide) (by decide) (by decide)) h
  | rti =>
    exact C.execRti (.setSp (by decide))
      (.setAnyFlags (by decide) (by decide) (by decide) (by decide) (by decide)) h

/-- Settles O57: registers and flags by `exec_writesOnly`, class, parameters and `took` as in every advance. -/
theorem instructionsWriteOnlyTheirOwnRegistersAndFlags :
    Obligations.InstructionsWriteOnlyTheirOwnRegistersAndFlags := by
  intro ins s t h
  obtain ⟨ha, hx, hy, hsp, hn, hz, hv, hd, hi, hc⟩ := exec_writesOnly h
  obtain ⟨hparams, hcls, htook, -, -, -⟩ := exec_advance h
  exact ⟨ha, hx, hy, hsp, fun w => ⟨hn w, hz w⟩, hv, hd, hi, hc, hcls, hparams, htook⟩

end Sys2Proof.Machine
end

section
/-! The state's own operations: reset, the status byte and `assign` (10_state.md R27, R28, R37). -/

namespace Sys2Proof.Machine

theorem reset_wf : State.reset.wf = true := by decide

/-- Storage reads 0x00 everywhere, so the vector gives PC back as 0x0000. -/
theorem hostReset_reset : hostReset State.reset = .next State.reset := rfl

/-- Settles O16, with `ready_reset` for the maps and watch tables. -/
theorem resetStateIsWellFormedAndMapped : Obligations.ResetStateIsWellFormedAndMapped :=
  ⟨reset_wf, ready_reset, hostReset_reset⟩

/-- The status byte's bits from bit 0 up: C Z I D B 1 V N (10_state.md R27). -/
theorem packP_getLsbD (b : Bool) (f : Flags) (n : Nat) :
    (packP b f).getLsbD n = [f.c, f.z, f.i, f.d, b, true, f.v, f.n].getD n false := by
  simp only [packP, BitVec.getLsbD_append, BitVec.getLsbD_ofBool]
  match n with
  | 0 | 1 | 2 | 3 | 4 | 5 | 6 | 7 => simp
  | n + 8 => simp

theorem unpackP_packP (b : Bool) (f : Flags) : unpackP (packP b f) = f := by
  simp only [unpackP, bit, packP_getLsbD]
  rfl

/-- Settles O46 by the list of the byte's bits. -/
theorem statusByteHoldsTheFlagsAndB : Obligations.StatusByteHoldsTheFlagsAndB := by
  intro b f
  have bits := packP_getLsbD b f
  exact ⟨unpackP_packP b f, bits 7, bits 6, bits 5, bits 4, bits 3, bits 2, bits 1, bits 0⟩

/-- Settles O47: for each register `assign` is that one record update, its Z being `decide (v = 0)` by definition
of `==` on bytes. -/
theorem assignStoresTheValueAndSetsNZ : Obligations.AssignStoresTheValueAndSetsNZ :=
  fun _ _ => ⟨rfl, rfl, rfl⟩

end Sys2Proof.Machine
end

section
/-! A bus access step by step (20_memory.md R55 to R59, R70), in every state and under any callbacks: the fault
before anything happens, each callback, and what is left to do after it. -/

namespace Sys2Proof.Machine

variable {a : Addr} {v : Byte} {s u w : State}

/-! ### Faults -/

/-- The fault of an access before any callback, for reads and writes alike (R58, R59): is the page `present` in the
watch table, which `cell` its map names, which mask bits are set and which of their callbacks. -/
def accessFault (a : Addr) (s : State) (present : Bool) (cell : Option Nat)
    (intercept hasIntercept brk hasBrk : Bool) : Option Fault :=
  if !present || cell.isNone then some (.unmappedPage a s)
  else if (intercept && !hasIntercept) || (brk && !hasBrk) then some (.missingCallback a s)
  else none

theorem readFault_eq (a : Addr) (s : State) :
    readFault a s = accessFault a s (watchPresent s a) (readCell s a) (intercepts (maskOf s a))
      s.params.hasOnRead (breaksOnRead s (maskOf s a)) s.params.hasOnBreakpoint := rfl

theorem writeFault_eq (a : Addr) (s : State) :
    writeFault a s = accessFault a s (watchPresent s a) (writeCell s a) (intercepts (maskOf s a))
      s.params.hasOnWrite (breaksOnWrite s (maskOf s a)) s.params.hasOnBreakpoint := rfl

section
variable {present i r b k : Bool} {cell : Option Nat}

theorem accessFault_unmapped (h : present = false ∨ cell = none) :
    accessFault a s present cell i r b k = some (.unmappedPage a s) :=
  if_pos (by simpa using h)

variable (hp : present = true) (hc : cell ≠ none)
include hp hc

theorem accessFault_mapped :
    accessFault a s present cell i r b k =
      if (i && !r) || (b && !k) then some (.missingCallback a s) else none :=
  if_neg (by simpa [hp] using hc)

theorem accessFault_missing (hm : (i = true ∧ r = false) ∨ (b = true ∧ k = false)) :
    accessFault a s present cell i r b k = some (.missingCallback a s) :=
  (accessFault_mapped hp hc).trans (if_pos (by simpa using hm))

theorem accessFault_none (hm : ¬((i = true ∧ r = false) ∨ (b = true ∧ k = false))) :
    accessFault a s present cell i r b k = none :=
  (accessFault_mapped hp hc).trans (if_neg (by simpa using hm))

end

/-! ### Callbacks -/

@[simp] theorem andThen_refused {α β : Type} (r : Refusal)
    (k : α → State → Host.Outcome β Fault Refusal) : andThen (.refused r) k = .refused r := rfl

/-- A callback that invokes CPU execution refuses the run (R70). -/
theorem callback_reentered {on : Bool} {r : CallbackResult Unit} {o : Res Unit} (hon : on = true)
    (hr : r = .reentered) : (if on then afterCallback a s r else o) = .refused (.callbackReentry a) := by
  rw [if_pos hon, hr]; rfl

/-- A callback that is invoked only where its bit is set leaves its changes of the host, or nothing (R54). -/
theorem callback_returned {on : Bool} {r : CallbackResult Unit} {h : HostState}
    (hh : if on = true then ∃ es, r = .returned () es ∧ h = s.host.edits es else h = s.host) :
    (if on then afterCallback a s r else .next ((), s)) = .next ((), s.setHost h) := by
  split at hh
  · next hon =>
    obtain ⟨es, rfl, rfl⟩ := hh
    rw [if_pos hon]; rfl
  · next hoff =>
    subst hh
    rw [if_neg hoff]; rfl

/-! ### Reads -/

theorem debugRead_of_peek (h : peek s a = some v) : debugRead a s = .next (v, s) := by
  simp [debugRead, h]

theorem debugRead_unmapped (h : readCell s a = none) : debugRead a s = .fault (.unmappedPage a s) := by
  simp [debugRead, peek, h]

theorem memRead_fault {f : Fault} (h : readFault a s = some f) : memRead a s = .fault f := by
  simp [memRead, h]

section
variable (hf : readFault a s = none)
include hf

theorem memRead_breakpoint_reentered {r : Refusal}
    (h : breakpointIf (breaksOnRead s (maskOf s a)) a s = .refused r) : memRead a s = .refused r := by
  simp [memRead, hf, h]

variable (hb : breakpointIf (breaksOnRead s (maskOf s a)) a s = .next ((), u))
include hb

/-! The value once the breakpoint callback is done; the mask is the one read before it (R55). -/

theorem memRead_intercepted (hi : intercepts (maskOf s a) = true) :
    memRead a s = andThen (afterCallback a u (Config.onRead u.host a)) fun v w => .next (v, w.tick (.read a v)) := by
  simp [memRead, hf, hb, hi]

theorem memRead_raw (hi : intercepts (maskOf s a) = false) :
    memRead a s = andThen (debugRead a u) fun v w => .next (v, w.tick (.read a v)) := by
  simp [memRead, hf, hb, hi]

end

/-! ### Writes -/

theorem rawStore_of_cell {k : Nat} (h : writeCell s a = some k) (v : Byte) :
    rawStore a v s = .next ((), storeCell s k v) := by
  simp [rawStore, h]

theorem memWrite_fault {f : Fault} (h : writeFault a s = some f) : memWrite a v s = .fault f := by
  simp [memWrite, h]

section
variable (hf : writeFault a s = none)
include hf

/-- The write callback's part of a write, where its bit is set (R56). -/
theorem memWrite_onWrite_reentered {r : Refusal}
    (h : (if intercepts (maskOf s a) then afterCallback a s (Config.onWrite s.host a v) else .next ((), s)) =
      .refused r) : memWrite a v s = .refused r := by
  simp [memWrite, hf, h]

variable (h : (if intercepts (maskOf s a) then afterCallback a s (Config.onWrite s.host a v)
  else .next ((), s)) = .next ((), u))
include h

theorem memWrite_breakpoint_reentered {r : Refusal}
    (hb : breakpointIf (breaksOnWrite u (maskOf s a)) a u = .refused r) : memWrite a v s = .refused r := by
  simp [memWrite, hf, h, hb]

variable (hb : breakpointIf (breaksOnWrite u (maskOf s a)) a u = .next ((), w))
include hb

/-! The store once both callbacks are done; the mask is the one read before them (R56). -/

theorem memWrite_intercepted (hi : intercepts (maskOf s a) = true) :
    memWrite a v s = .next ((), w.tick (.write a v)) := by
  simp only [memWrite, hf, h, hb, andThen_next]
  rw [if_pos hi, andThen_next]

theorem memWrite_raw (hi : intercepts (maskOf s a) = false) :
    memWrite a v s = andThen (rawStore a v w) fun _ x => .next ((), x.tick (.write a v)) := by
  simp only [memWrite, hf, h, hb, andThen_next]
  rw [if_neg (Bool.eq_false_iff.mp hi)]

end

end Sys2Proof.Machine
end

section
/-! The memory access layer's own statements (20_memory.md R52 to R59, R66, R70). -/

namespace Sys2Proof.Machine

/-- Settles O10: the faults by `readFault`, then the callbacks in R55's order, each by what it answers. -/
theorem busReadFollowsTheWatchMask : Obligations.BusReadFollowsTheWatchMask := by
  intro a s m intercept brk missing
  have fault := readFault_eq a s
  refine ⟨fun h => memRead_fault (fault.trans (accessFault_unmapped h)),
    fun hp hc hm => memRead_fault (fault.trans (accessFault_missing hp hc hm)), fun hp hc hm => ?_⟩
  have hf : readFault a s = none := fault.trans (accessFault_none hp hc hm)
  refine ⟨fun hb hr => memRead_breakpoint_reentered hf (callback_reentered hb hr), fun h₁ hb => ?_⟩
  have broken : breakpointIf (breaksOnRead s m) a s = .next ((), s.setHost h₁) := callback_returned hb
  refine ⟨fun hi hr => ?_, fun v es hi hr => ?_, fun v hi hv => ?_⟩
  · rw [memRead_intercepted hf broken hi, State.setHost_host, hr]; rfl
  · rw [memRead_intercepted hf broken hi, State.setHost_host, hr]; rfl
  · rw [memRead_raw hf broken hi, debugRead_of_peek hv]; rfl

/-- Settles O11: the faults by `writeFault`, then the callbacks in R56's order, then the store. -/
theorem busWriteFollowsTheWatchMask : Obligations.BusWriteFollowsTheWatchMask := by
  intro a v s m intercept brk missing
  have fault := writeFault_eq a s
  refine ⟨fun h => memWrite_fault (fault.trans (accessFault_unmapped h)),
    fun hp hc hm => memWrite_fault (fault.trans (accessFault_missing hp hc hm)), fun hp hc hm => ?_⟩
  have hf : writeFault a s = none := fault.trans (accessFault_none hp hc hm)
  refine ⟨fun hi hr => memWrite_onWrite_reentered hf (callback_reentered hi hr), fun h₁ hi₁ => ?_⟩
  have written := callback_returned (a := a) hi₁
  refine ⟨fun hb hr => memWrite_breakpoint_reentered hf written (callback_reentered hb hr), fun h₂ hb => ?_⟩
  have broken : breakpointIf (breaksOnWrite s m) a (s.setHost h₁) = .next ((), s.setHost h₂) :=
    callback_returned hb
  refine ⟨fun hi => memWrite_intercepted hf written broken hi, fun cell hi hc => ?_⟩
  rw [memWrite_raw hf written broken hi, rawStore_of_cell hc]; rfl

/-- Settles O13: the closed form of a write on a ready machine, then read after write by cell. -/
theorem aStoreIsReadBackExactlyFromItsOwnCell : Obligations.AStoreIsReadBackExactlyFromItsOwnCell := by
  intro a v s hs hw
  refine ⟨_, memWrite_ready hs a v, fun b => ?_⟩
  obtain ⟨cell, hcell⟩ := Option.isSome_iff_exists.mp (hs.writable a)
  rw [memAt_tick]
  split
  · next same => exact memAt_storeAt_same v hw hcell (same.trans hcell)
  · next other => exact memAt_storeAt_other v other

/-- Settles O12: R57 by the two answers of a raw read. -/
theorem debugReadHasNoEffect : Obligations.DebugReadHasNoEffect :=
  fun _ _ => ⟨fun _ => debugRead_of_peek, debugRead_unmapped⟩

/-- Settles O14: an access that completes has changed the host and ticked once (`memRead_next`, `memWrite_next`). -/
theorem busAccessesChangeOnlyCyclesOfTheCpu : Obligations.BusAccessesChangeOnlyCyclesOfTheCpu := by
  constructor
  · intro a s v t h
    obtain ⟨_, ⟨_, -, rfl⟩, rfl⟩ := memRead_next h
    exact ⟨rfl, rfl, rfl, rfl⟩
  · intro a v s _ t h
    obtain ⟨_, ⟨_, -, rfl⟩, rfl⟩ := memWrite_next h
    exact ⟨rfl, rfl, rfl, rfl⟩

end Sys2Proof.Machine
end

section
/-! Steps with no watch bit set (20_memory.md R53): no callback runs, so the host changes only where a write
stores a byte. -/

namespace Sys2Proof.Machine

variable {a : Addr} {v : Byte} {s t u : State}

/-- What `Unwatched` depends on: the watch masks and the positions of their bits. -/
theorem Unwatched.congr (h : Unwatched s) (hm : t.host.watchMask = s.host.watchMask)
    (hp : t.params = s.params) : Unwatched t := by
  intro a
  simpa only [maskOf, breaksOnRead, breaksOnWrite, hm, hp] using h a

theorem breakpointIf_false (a : Addr) (s : State) : breakpointIf false a s = .next ((), s) := rfl

theorem memRead_unwatched (hs : Unwatched s) (h : memRead a s = .next (v, t)) :
    peek s a = some v ∧ t = s.tick (.read a v) := by
  obtain ⟨hi, hb, -⟩ := hs a
  cases hf : readFault a s with
  | some f => simp [memRead_fault hf] at h
  | none =>
    rw [memRead_raw hf (by rw [hb, breakpointIf_false]) hi] at h
    simp only [andThen_eq_next, Host.Outcome.next.injEq, Prod.mk.injEq] at h
    obtain ⟨w, u, hread, rfl, rfl⟩ := h
    obtain ⟨hpeek, rfl⟩ := debugRead_next hread
    exact ⟨hpeek, rfl⟩

theorem memWrite_unwatched (hs : Unwatched s) {w : Unit} (h : memWrite a v s = .next (w, t)) :
    ∃ cell, writeCell s a = some cell ∧ t = (storeCell s cell v).tick (.write a v) := by
  obtain ⟨hi, -, hb⟩ := hs a
  cases hf : writeFault a s with
  | some f => simp [memWrite_fault hf] at h
  | none =>
    rw [memWrite_raw hf (by rw [hi]; rfl) (by rw [hb, breakpointIf_false]) hi] at h
    simp only [andThen_eq_next, Host.Outcome.next.injEq, Prod.mk.injEq] at h
    obtain ⟨_, u, hstore, -, rfl⟩ := h
    obtain ⟨cell, hcell, rfl⟩ := rawStore_next hstore
    exact ⟨cell, hcell, rfl⟩

/-! ### The host but for storage -/

/-- `t` has the parameters of `s`, and its host but for stored bytes. -/
structure StoresOnly (s t : State) : Prop where
  params : t.params = s.params
  host : t.host = { s.host with storage := t.host.storage }

namespace StoresOnly

theorem ofSameHost (hp : t.params = s.params) (hh : t.host = s.host) : StoresOnly s t := ⟨hp, by rw [hh]⟩

theorem trans (h : StoresOnly s t) (h' : StoresOnly t u) : StoresOnly s u where
  params := h'.params.trans h.params
  host := by rw [h'.host, h.host]

theorem unwatched (h : StoresOnly s t) (hs : Unwatched s) : Unwatched t :=
  hs.congr (by rw [h.host]) h.params

/-- From an unwatched state nothing an instruction or an entry does changes the host but for stored bytes. -/
theorem closed : AllClosed fun s t => Unwatched s → StoresOnly s t where
  refl _ _ := ofSameHost rfl rfl
  trans h h' hs := (h hs).trans (h' ((h hs).unwatched hs))
  memRead h hs := by
    obtain ⟨-, rfl⟩ := memRead_unwatched hs h
    exact ofSameHost rfl rfl
  memWrite h hs := by
    obtain ⟨cell, -, rfl⟩ := memWrite_unwatched hs h
    exact ⟨rfl, rfl⟩
  setPc _ _ _ := ofSameHost rfl rfl
  setA _ _ _ := ofSameHost rfl rfl
  setX _ _ _ := ofSameHost rfl rfl
  setY _ _ _ := ofSameHost rfl rfl
  setSp _ _ _ := ofSameHost rfl rfl
  setFlags _ _ _ := ofSameHost rfl rfl

end StoresOnly

/-! ### The start of a step -/

namespace Start

variable (h : Start s u)
include h

/-- At a start no NMI is pending any more, and the rest of the host is as it was (log 7). -/
theorem host_eq : u.host = { s.host with nmi := false } := by
  cases h with
  | nmi _ => rfl
  | irq hn _ _ | instruction hn _ => rw [← hn]; rfl

theorem took_eq_nmi_iff : u.took = .nmi ↔ s.host.nmi = true := by
  cases h with
  | nmi hn | irq hn _ _ | instruction hn _ => simp [hn]

theorem unwatched (hs : Unwatched s) : Unwatched u :=
  hs.congr (by rw [h.host_eq]) h.params_eq

end Start

/-- Settles O19: a start drops the NMI it takes, and from there only stored bytes change. -/
theorem unwatchedStepsLeaveTheHostTablesAlone : Obligations.UnwatchedStepsLeaveTheHostTablesAlone := by
  intro s t hs h
  obtain ⟨u, hu, hstep⟩ := step_from_start h
  have htook : t.took = u.took := (hstep advance_closed).took
  have hhost : t.host = { s.host with nmi := false, storage := t.host.storage } := by
    rw [(hstep StoresOnly.closed (hu.unwatched hs)).host, hu.host_eq]
  refine ⟨?_, ?_, ?_, ?_, ?_, ?_, ?_, htook ▸ hu.took_eq_nmi_iff⟩ <;> rw [hhost]

end Sys2Proof.Machine
end

section
/-! Decoding and encoding are inverse (30_encoding.md R80 to R84): for the opcode byte, for the operand bytes, and so
for an instruction and what follows it. -/

namespace Sys2Proof

open Machine

/-! ### The opcode byte -/

/-- The map of R83 holds each instruction at the opcode byte that its own rule lists. -/
theorem decodeOpcode_opcodeOf (i : Instr) : decodeOpcode (opcodeOf i) = some i := by
  cases i <;> rfl

/-- Each entry of the map of R83 stands at the opcode byte that its own rule lists. -/
theorem opcodeOf_of_mem_decodeOpcode : ∀ op, ∀ i ∈ decodeOpcode op, opcodeOf i = op := by
  decide

theorem decodeOpcode_eq_some_iff {op : Byte} {i : Instr} : decodeOpcode op = some i ↔ opcodeOf i = op :=
  ⟨opcodeOf_of_mem_decodeOpcode op i, fun h => h ▸ decodeOpcode_opcodeOf i⟩

/-- R84's list is the map of R83 read from 0x00 to 0xFF, keeping the bytes marked `--`. -/
theorem filter_isNone_decodeOpcode :
    ((List.finRange 256).map BitVec.ofFin).filter (decodeOpcode · |>.isNone) = undefinedBytes := by
  decide

theorem decodeOpcode_eq_none_iff (op : Byte) : decodeOpcode op = none ↔ op ∈ undefinedBytes := by
  have listed : op ∈ (List.finRange 256).map BitVec.ofFin :=
    List.mem_map.mpr ⟨op.toFin, List.mem_finRange _, rfl⟩
  rw [← filter_isNone_decodeOpcode, List.mem_filter, Option.isNone_iff_eq_none]
  exact (and_iff_right listed).symm

/-! ### The operand bytes -/

theorem takeOperand_operandBytes {f : Format} {o : Operand} (h : o.fits f = true) (rest : List Byte) :
    takeOperand f (operandBytes o ++ rest) = some (o, rest) :=
  match f, o, h with
  | .f1, .none, _ => rfl
  | .f2, .byte _, _ => rfl
  | .f3, .addr w, _ => by simp [operandBytes, takeOperand]

theorem operandBytes_of_takeOperand {f : Format} {bs rest : List Byte} {o : Operand}
    (h : takeOperand f bs = some (o, rest)) : o.fits f = true ∧ operandBytes o ++ rest = bs := by
  match f, bs, h with
  | .f1, _, rfl | .f2, _ :: _, rfl => exact ⟨rfl, rfl⟩
  | .f3, lo :: hi :: _, rfl => exact ⟨rfl, by simp [operandBytes]⟩

/-- Taking an operand answers the operand that fits the format, and leaves what follows its bytes (R80). -/
theorem takeOperand_eq_some_iff {f : Format} {bs rest : List Byte} {o : Operand} :
    takeOperand f bs = some (o, rest) ↔ o.fits f = true ∧ operandBytes o ++ rest = bs :=
  ⟨operandBytes_of_takeOperand, fun ⟨fits, hbs⟩ => hbs ▸ takeOperand_operandBytes fits rest⟩

/-! ### The instruction -/

/-- An instruction is read as its opcode byte, then the operand of its mode's format. -/
theorem decode_cons_eq_ok_iff {op : Byte} {bs rest : List Byte} {e : Encoded} :
    decode (op :: bs) = .ok (e, rest) ↔
      decodeOpcode op = some e.instr ∧
        takeOperand (formatOf (modeOf e.instr)) bs = some (e.operand, rest) := by
  constructor
  · intro h
    simp only [decode] at h
    split at h
    · cases h
    · next i hop =>
      split at h
      · cases h
      · next o rest ho =>
        cases h
        exact ⟨hop, ho⟩
  · rintro ⟨hop, ho⟩
    simp only [decode, hop, ho]

/-- Both directions of R80 to R83: the opcode byte by the map, the operand by its format. -/
theorem decode_eq_ok_iff {bs rest : List Byte} {e : Encoded} :
    decode bs = .ok (e, rest) ↔ e.wf = true ∧ encode e ++ rest = bs := by
  cases bs with
  | nil => simp [decode, encode]
  | cons op bs =>
    calc decode (op :: bs) = .ok (e, rest)
      _ ↔ opcodeOf e.instr = op ∧ e.wf = true ∧ operandBytes e.operand ++ rest = bs := by
        rw [decode_cons_eq_ok_iff, decodeOpcode_eq_some_iff, takeOperand_eq_some_iff, Encoded.wf]
      _ ↔ e.wf = true ∧ encode e ++ rest = op :: bs := by
        rw [encode, List.cons_append, List.cons.injEq, and_left_comm]

/-- Settles O1: `decode_eq_ok_iff` at the encoding followed by the rest. -/
theorem decodingAnEncodedInstructionGivesItBack : Obligations.DecodingAnEncodedInstructionGivesItBack :=
  fun _ _ wf => decode_eq_ok_iff.mpr ⟨wf, rfl⟩

/-- Settles O2 by the other direction of `decode_eq_ok_iff`. -/
theorem decodedBytesAreTheEncodingOfAWellFormedInstruction :
    Obligations.DecodedBytesAreTheEncodingOfAWellFormedInstruction :=
  fun _ _ _ => decode_eq_ok_iff.mp

/-- Settles O4 by running the decoder on each word. -/
theorem sampleWordsDecodeToTheirInstructions : Obligations.SampleWordsDecodeToTheirInstructions :=
  ⟨rfl, rfl, rfl, rfl, rfl, rfl, rfl, rfl, rfl, rfl, rfl⟩

end Sys2Proof
end

section
/-! The step where no interrupt is taken and the opcode byte is undefined (30_encoding.md R84, 60_exceptions.md
R402, R405). -/

namespace Sys2Proof.Machine

variable {s : State} {op : Byte} {a : Addr}

theorem step_of_noEntry (hn : NoEntry s) : step s = runInstruction (s.clearBus.setTook .none) := by
  obtain ⟨hnmi, hirq⟩ := hn
  have masked : (s.host.irq && !s.cpu.flags.i) = false := by simpa using hirq
  simp [step, stepFromBoundary, hnmi, masked]

/-- A step that takes no interrupt fetches the opcode byte at PC and runs it (R405). -/
theorem step_eq_runOpcode (hs : Ready s) (hn : NoEntry s) :
    step s = runOpcode (memAt s s.cpu.pc) s.cpu.pc (fetched s) := by
  rw [step_of_noEntry hn, runInstruction, fetchByte_ready (by simpa using hs), andThen_next]
  rfl

@[simp] theorem ready_fetched (s : State) : Ready (fetched s) ↔ Ready s :=
  Ready.iff_of_eq rfl rfl rfl rfl rfl

theorem runOpcode_of_undefined (ht : tableGet freshDispatch s.params.dispatch op.toNat = .table)
    (hu : op ∈ undefinedBytes) : runOpcode op a s = undefinedOpcode op a s := by
  simp [runOpcode, ht, (decodeOpcode_eq_none_iff op).mpr hu]

theorem undefinedOpcode_fault (hp : s.params.undefPolicy = .fault) :
    undefinedOpcode op a s = .fault (.undefinedOpcode op a s) := by
  simp [undefinedOpcode, hp]

theorem undefinedOpcode_nop (hs : Ready s) (hp : s.params.undefPolicy = .nop) :
    undefinedOpcode op a s = .next (s.tick (readOf s s.cpu.pc)) := by
  simp [undefinedOpcode, hp, dummyReadPc, dummyRead_ready hs, readOf]

/-- Settles O3: R84's list by `decodeOpcode_eq_none_iff`; the step by the opcode fetch and then each policy (D2). -/
theorem undefinedOpcodesFollowThePolicy : Obligations.UndefinedOpcodesFollowThePolicy := by
  refine ⟨decodeOpcode_eq_none_iff, fun s hs hn hu ht => ?_⟩
  have undef : step s = undefinedOpcode (memAt s s.cpu.pc) s.cpu.pc (fetched s) :=
    (step_eq_runOpcode hs hn).trans (runOpcode_of_undefined ht hu)
  rw [undef]
  exact ⟨undefinedOpcode_fault (s := fetched s), undefinedOpcode_nop ((ready_fetched s).mpr hs)⟩

end Sys2Proof.Machine
end

section
/-! Where a run stores with no watch bit set (40_pipelines.md R113, R114): the host changes by stores to named
addresses alone, so every other cell and every address not read from one of theirs keeps its byte. -/

namespace Sys2Proof.Machine

variable {as bs : List Addr} {a b : Addr} {s t u : State}

theorem StoresOnly.writeCell_eq (h : StoresOnly s t) (a : Addr) : writeCell t a = writeCell s a := by
  have hm : t.host.writeMap = s.host.writeMap := by rw [h.host]
  simp only [writeCell, cellIn, offsetOf, pageOf, pageSize, hm, h.params]

theorem StoresOnly.readCell_eq (h : StoresOnly s t) (a : Addr) : readCell t a = readCell s a := by
  have hm : t.host.readMap = s.host.readMap := by rw [h.host]
  simp only [readCell, cellIn, offsetOf, pageOf, pageSize, hm, h.params]

/-- `t` has the parameters of `s`, and its host after stores to cells that addresses of `as` are written to. -/
inductive StoresAt (as : List Addr) (s : State) : State → Prop where
  | none {t : State} (hp : t.params = s.params) (hh : t.host = s.host) : StoresAt as s t
  | store {t u : State} {a : Addr} {k : Nat} {v : Byte} (before : StoresAt as s t) (ha : a ∈ as)
      (hk : writeCell t a = some k) (hp : u.params = t.params)
      (hh : u.host = t.host.edit (.storeCell k v)) : StoresAt as s u

namespace StoresAt

theorem storesOnly (h : StoresAt as s t) : StoresOnly s t := by
  induction h with
  | none hp hh => exact .ofSameHost hp hh
  | store _ _ _ hp hh ih => exact ih.trans ⟨hp, by rw [hh]; rfl⟩

theorem congr (h : StoresAt as s t) (hp : u.params = t.params) (hh : u.host = t.host) : StoresAt as s u := by
  cases h with
  | none hp' hh' => exact .none (hp.trans hp') (hh.trans hh')
  | store before ha hk hp' hh' => exact .store before ha hk (hp.trans hp') (hh.trans hh')

theorem trans (h : StoresAt as s t) (h' : StoresAt as t u) : StoresAt as s u := by
  induction h' with
  | none hp hh => exact h.congr hp hh
  | store _ ha hk hp hh ih => exact .store ih ha hk hp hh

theorem mono (h : StoresAt as s t) (hs : as ⊆ bs) : StoresAt bs s t := by
  induction h with
  | none hp hh => exact .none hp hh
  | store _ ha hk hp hh ih => exact .store ih (hs ha) hk hp hh

/-! What is left alone. -/

theorem host_eq (h : StoresAt [] s t) : t.host = s.host := by
  cases h with
  | none _ hh => exact hh
  | store _ ha => cases ha

theorem cellByte_other (h : StoresAt as s t) {k : Nat} (hk : ∀ a ∈ as, writeCell s a ≠ some k) :
    cellByte t k = cellByte s k := by
  induction h with
  | none _ hh => rw [cellByte, hh]; rfl
  | @store t u a k' v before ha hk' _ hh ih =>
    have other : k ≠ k' := by
      rintro rfl
      exact hk a ha ((before.storesOnly.writeCell_eq a).symm.trans hk')
    calc cellByte u k
      _ = cellByte (storeCell t k' v) k := by rw [cellByte, hh]; rfl
      _ = cellByte t k := cellByte_storeCell_other t v other
      _ = cellByte s k := ih

theorem peek_other (h : StoresAt as s t) (hb : ∀ a ∈ as, readCell s b ≠ writeCell s a) :
    peek t b = peek s b := by
  unfold peek
  rw [h.storesOnly.readCell_eq]
  cases hc : readCell s b with
  | none => rfl
  | some k => exact congrArg some (h.cellByte_other fun a ha hk => hb a ha (hc.trans hk.symm))

/-! The accesses. -/

theorem memRead {v : Byte} (h : memRead a s = .next (v, t)) (hs : Unwatched s) : StoresAt as s t := by
  obtain ⟨-, rfl⟩ := memRead_unwatched hs h
  exact .none rfl rfl

theorem memWrite {v : Byte} {w : Unit} (ha : a ∈ as) (h : memWrite a v s = .next (w, t))
    (hs : Unwatched s) : StoresAt as s t := by
  obtain ⟨k, hk, rfl⟩ := memWrite_unwatched hs h
  exact .store (.none rfl rfl) ha hk rfl rfl

theorem readClosed (as : List Addr) : ReadClosed fun s t => Unwatched s → StoresAt as s t where
  refl _ _ := .none rfl rfl
  trans h h' hs := (h hs).trans (h' ((h hs).storesOnly.unwatched hs))
  memRead := .memRead
  setPc _ _ _ := .none rfl rfl

end StoresAt

/-! ### The instructions that do not store -/

/-- Outside the storers an instruction only reads and changes registers and flags. -/
theorem exec_storesAt_nil {i : Instr} (hi : i ∉ storers) (h : exec i s = .next t) (hs : Unwatched s) :
    StoresAt [] s t := by
  have C := StoresAt.readClosed []
  have reads {body : Byte → State → State} := C.readIn (m := modeOf i) (body := body) (s := s) (t := t)
  cases i with
  | staZp | staZpX | staAbs | staAbsX | staAbsY | staIndX | staIndY
  | stxZp | stxZpY | stxAbs | styZp | styZpX | styAbs
  | incZp | incZpX | incAbs | incAbsX | decZp | decZpX | decAbs | decAbsX
  | aslZp | aslZpX | aslAbs | aslAbsX | lsrZp | lsrZpX | lsrAbs | lsrAbsX
  | rolZp | rolZpX | rolAbs | rolAbsX | rorZp | rorZpX | rorAbs | rorAbsX
  | pha | php | jsr | brk => exact absurd (by decide) hi
  | ldaImm | ldaZp | ldaZpX | ldaAbs | ldaAbsX | ldaAbsY | ldaIndX | ldaIndY
  | ldxImm | ldxZp | ldxZpY | ldxAbs | ldxAbsY | ldyImm | ldyZp | ldyZpX | ldyAbs | ldyAbsX
  | adcImm | adcZp | adcZpX | adcAbs | adcAbsX | adcAbsY | adcIndX | adcIndY
  | sbcImm | sbcZp | sbcZpX | sbcAbs | sbcAbsX | sbcAbsY | sbcIndX | sbcIndY
  | cmpImm | cmpZp | cmpZpX | cmpAbs | cmpAbsX | cmpAbsY | cmpIndX | cmpIndY
  | cpxImm | cpxZp | cpxAbs | cpyImm | cpyZp | cpyAbs
  | andImm | andZp | andZpX | andAbs | andAbsX | andAbsY | andIndX | andIndY
  | oraImm | oraZp | oraZpX | oraAbs | oraAbsX | oraAbsY | oraIndX | oraIndY
  | eorImm | eorZp | eorZpX | eorAbs | eorAbsX | eorAbsY | eorIndX | eorIndY | bitZp | bitAbs =>
    exact reads (fun _ _ _ => .none (by rfl) (by rfl)) h hs
  | tax | tay | txa | tya | tsx | txs | inx | iny | dex | dey | aslA | lsrA | rolA | rorA | nop | clc | sec
  | cli | sei | cld | sed | clv => exact C.implied (fun _ _ => .none (by rfl) (by rfl)) h hs
  | bpl => exact C.branch (cond := (!·.n)) h hs
  | bvc => exact C.branch (cond := (!·.v)) h hs
  | bcc => exact C.branch (cond := (!·.c)) h hs
  | bne => exact C.branch (cond := (!·.z)) h hs
  | bmi | bvs | bcs | beq => exact C.branch h hs
  | jmpAbs => exact C.execJmpAbs h hs
  | jmpInd => exact C.execJmpInd h hs
  | rts => exact C.execRts (fun _ _ _ => .none rfl rfl) h hs
  | rti => exact C.execRti (fun _ _ _ => .none rfl rfl) (fun _ _ _ => .none rfl rfl) h hs
  | pla => exact C.execPla (fun _ _ _ => .none rfl rfl) (fun _ _ _ => .none rfl rfl) h hs
  | plp => exact C.execPlp (fun _ _ _ => .none rfl rfl) (fun _ _ _ => .none rfl rfl) h hs

/-- Settles O58: no store, so the host is the same data and every address reads as before. -/
theorem instructionsThatDoNotStoreLeaveMemory : Obligations.InstructionsThatDoNotStoreLeaveMemory := by
  intro i s t hs hi h
  have stored := exec_storesAt_nil hi h hs
  exact ⟨stored.host_eq, fun _ => stored.peek_other (by simp)⟩

/-! ### The write and rmw kinds -/

section
variable {p : Instr × (State → Res Addr)}

/-- Each form's pipeline is that of its mode. -/
theorem eq_pipeline_of_mem_storesThrough (hp : p ∈ storesThrough) : p.2 = pipeline .write (modeOf p.1) :=
  (List.map_inj_left (f := (·.2)) (g := (pipeline .write <| modeOf ·.1))).mp rfl p hp

theorem exists_eq_writeKind {l : List (Instr × (State → Res Addr))} {value : Cpu → Byte}
    (h : l.map (exec ·.1) = l.map (writeKind ·.2 value)) (hp : p ∈ l) :
    ∃ value, exec p.1 = writeKind p.2 value :=
  ⟨value, List.map_inj_left.mp h p hp⟩

theorem exists_eq_rmwKind {l : List (Instr × (State → Res Addr))} {f : Flags → Byte → Byte × Flags}
    (h : l.map (exec ·.1) = l.map (rmwKind ·.2 f)) (hp : p ∈ l) : ∃ f, exec p.1 = rmwKind p.2 f :=
  ⟨f, List.map_inj_left.mp h p hp⟩

/-- Each form is of the write or the rmw kind through its pipeline (R114). -/
theorem exec_of_mem_storesThrough (hp : p ∈ storesThrough) :
    (∃ value, exec p.1 = writeKind p.2 value) ∨ ∃ f, exec p.1 = rmwKind p.2 f := by
  simp only [storesThrough, List.mem_append, or_assoc] at hp
  rcases hp with sta | stx | sty | asl | lsr | rol | ror | inc | dec
  · exact .inl (exists_eq_writeKind (value := (·.a)) rfl sta)
  · exact .inl (exists_eq_writeKind (value := (·.x)) rfl stx)
  · exact .inl (exists_eq_writeKind (value := (·.y)) rfl sty)
  · exact .inr (exists_eq_rmwKind (f := aslByte) rfl asl)
  · exact .inr (exists_eq_rmwKind (f := lsrByte) rfl lsr)
  · exact .inr (exists_eq_rmwKind (f := rolByte) rfl rol)
  · exact .inr (exists_eq_rmwKind (f := rorByte) rfl ror)
  · exact .inr (exists_eq_rmwKind (f := incByte) rfl inc)
  · exact .inr (exists_eq_rmwKind (f := decByte) rfl dec)

end

section
variable {ea : State → Res Addr} (ha : ea s = .next (a, u)) (he : Unwatched s → StoresAt [a] s u)
include ha he

theorem writeKind_storesAt {value : Cpu → Byte} (h : writeKind ea value s = .next t) (hs : Unwatched s) :
    StoresAt [a] s t := by
  simp only [writeKind, ha, andThen_next, andThen_eq_next, Host.Outcome.next.injEq] at h
  obtain ⟨_, _, h₁, rfl⟩ := h
  exact (StoresAt.readClosed [a]).trans he (.memWrite (.head _) h₁) hs

theorem rmwKind_storesAt {f : Flags → Byte → Byte × Flags} (h : rmwKind ea f s = .next t)
    (hs : Unwatched s) : StoresAt [a] s t := by
  simp only [rmwKind, rmwTail, ha, andThen_next, andThen_eq_next, Host.Outcome.next.injEq] at h
  obtain ⟨_, _, h₁, _, _, h₂, _, _, h₃, rfl⟩ := h
  have C := StoresAt.readClosed [a]
  have read := C.trans he (C.memRead h₁)
  have stored := C.trans (C.trans read (.memWrite (.head _) h₂)) (.memWrite (.head _) h₃) hs
  exact stored.congr rfl rfl

end

/-- A write or rmw instruction stores at its effective address alone, the dummy write included (R113). -/
theorem exec_storesAt_ea {p : Instr × (State → Res Addr)} (hp : p ∈ storesThrough) (h : exec p.1 s = .next t)
    (ha : p.2 s = .next (a, u)) (hs : Unwatched s) : StoresAt [a] s t := by
  have he : Unwatched s → StoresAt [a] s u := by
    rw [eq_pipeline_of_mem_storesThrough hp] at ha
    exact (StoresAt.readClosed [a]).pipeline .write _ ha
  rcases exec_of_mem_storesThrough hp with ⟨value, hk⟩ | ⟨f, hk⟩
  · exact writeKind_storesAt ha he (hk ▸ h) hs
  · exact rmwKind_storesAt ha he (hk ▸ h) hs

/-- Settles O59: every store is at the effective address, so any other cell, and any address not read from its cell,
keeps its byte. -/
theorem storingInstructionsChangeOnlyTheEffectiveAddress :
    Obligations.StoringInstructionsChangeOnlyTheEffectiveAddress := by
  intro p hp s t hs h a u ha
  have stored := exec_storesAt_ea hp h ha hs
  exact ⟨fun _ hk => stored.cellByte_other (by simpa using hk),
    fun _ hb => stored.peek_other (by simpa using hb)⟩

end Sys2Proof.Machine
end

section
/-! The pushes with no watch bit set (40_pipelines.md R106, 44_control.md R302, R304, 45_stack_flags.md R330, R331):
how many an operation makes says where it stores and where it leaves SP. -/

namespace Sys2Proof.Machine

variable {s t u : State}

/-- From an unwatched `s`, `t` comes after `n` pushes, and no other store (R106). -/
def Pushes (n : Nat) (s t : State) : Prop :=
  Unwatched s → StoresAt (List.iterate spDown s.cpu.sp n) s t ∧ t.cpu.sp = spDown^[n] s.cpu.sp

theorem Pushes.trans {m n : Nat} (h : Pushes m s t) (h' : Pushes n t u) : Pushes (m + n) s u := by
  intro hs
  obtain ⟨stored, hsp⟩ := h hs
  obtain ⟨stored', hsp'⟩ := h' (stored.storesOnly.unwatched hs)
  rw [hsp] at stored' hsp'
  rw [List.iterate_add, hsp', Nat.add_comm, Function.iterate_add_apply]
  exact ⟨(stored.mono (List.subset_append_left _ _)).trans (stored'.mono (List.subset_append_right _ _)), rfl⟩

theorem pushes_zero (hp : t.params = s.params) (hh : t.host = s.host) (hsp : t.cpu.sp = s.cpu.sp) :
    Pushes 0 s t := fun _ => ⟨.none hp hh, hsp⟩

theorem pushes_setFlags (s : State) (f : Flags) : Pushes 0 s (s.setFlags f) := pushes_zero rfl rfl rfl

theorem pushes_readClosed : ReadClosed (Pushes 0) where
  refl _ := pushes_zero rfl rfl rfl
  trans := Pushes.trans
  memRead h hs := by
    obtain ⟨-, rfl⟩ := memRead_unwatched hs h
    exact pushes_zero rfl rfl rfl hs
  setPc _ _ := pushes_zero rfl rfl rfl

theorem push_pushes {v : Byte} {w : Unit} (h : push v s = .next (w, t)) : Pushes 1 s t := by
  simp only [push, andThen_eq_next, Host.Outcome.next.injEq, Prod.mk.injEq] at h
  obtain ⟨_, _, h₁, -, rfl⟩ := h
  intro hs
  obtain ⟨k, hk, rfl⟩ := memWrite_unwatched hs h₁
  exact ⟨.store (.none rfl rfl) (.head _) hk rfl rfl, rfl⟩

theorem execPha_pushes (h : execPha s = .next t) : Pushes 1 s t := by
  simp only [execPha, andThen_eq_next, Host.Outcome.next.injEq] at h
  obtain ⟨_, _, h₁, _, _, h₂, rfl⟩ := h
  exact (pushes_readClosed.dummyRead h₁).trans (push_pushes h₂)

theorem execPhp_pushes (h : execPhp s = .next t) : Pushes 1 s t := by
  simp only [execPhp, andThen_eq_next, Host.Outcome.next.injEq] at h
  obtain ⟨_, _, h₁, _, _, h₂, rfl⟩ := h
  exact (pushes_readClosed.dummyRead h₁).trans (push_pushes h₂)

theorem execJsr_pushes (h : execJsr s = .next t) : Pushes 2 s t := by
  simp only [execJsr, andThen_eq_next, Host.Outcome.next.injEq] at h
  obtain ⟨_, _, h₁, _, _, h₂, _, _, h₃, _, _, h₄, _, _, h₅, rfl⟩ := h
  have C := pushes_readClosed
  exact ((((C.fetchByte h₁).trans (C.dummyRead h₂)).trans (push_pushes h₃)).trans (push_pushes h₄)).trans
    ((C.memRead h₅).trans (C.setPc _ _))

theorem enterHandler_pushes {b : Bool} {vec : Addr} (h : enterHandler b vec s = .next t) : Pushes 3 s t := by
  simp only [enterHandler, andThen_eq_next, Host.Outcome.next.injEq] at h
  obtain ⟨_, _, h₁, _, _, h₂, _, _, h₃, _, _, h₄, _, _, h₅, rfl⟩ := h
  have C := pushes_readClosed
  exact (((push_pushes h₁).trans (push_pushes h₂)).trans (push_pushes h₃)).trans
    ((pushes_setFlags _ _).trans ((C.memRead h₄).trans ((C.memRead h₅).trans (C.setPc _ _))))

theorem execBrk_pushes (h : execBrk s = .next t) : Pushes 3 s t := by
  simp only [execBrk, andThen_eq_next] at h
  obtain ⟨_, _, h₁, h₂⟩ := h
  exact (pushes_readClosed.fetchByte h₁).trans (enterHandler_pushes h₂)

/-- Settles O60: PHA and PHP make one push, JSR two and BRK three, each at the slot the last one left SP at. -/
theorem pushingInstructionsChangeOnlyTheStackBytes : Obligations.PushingInstructionsChangeOnlyTheStackBytes := by
  intro s t hs sp₁ sp₂
  refine ⟨fun h => ?_, fun h => ?_, fun h => ?_⟩
  · have stored := (h.elim execPha_pushes execPhp_pushes hs).1
    exact ⟨fun k h₀ => stored.cellByte_other (by simpa using h₀),
      fun b h₀ => stored.peek_other (by simpa using h₀)⟩
  · have stored := (execJsr_pushes h hs).1
    exact ⟨fun k h₀ h₁ => stored.cellByte_other (by simpa using ⟨h₀, h₁⟩),
      fun b h₀ h₁ => stored.peek_other (by simpa using ⟨h₀, h₁⟩)⟩
  · have stored := (execBrk_pushes h hs).1
    exact ⟨fun k h₀ h₁ h₂ => stored.cellByte_other (by simpa using ⟨h₀, h₁, h₂⟩),
      fun b h₀ h₁ h₂ => stored.peek_other (by simpa using ⟨h₀, h₁, h₂⟩)⟩

end Sys2Proof.Machine
end

section
/-! The stack pointer in page 1 (40_pipelines.md R106, R107, 41_load_store_transfer.md R210, R211). -/

namespace Sys2Proof.Machine

variable {s : State}

/-! ### Addresses of page 1 -/

theorem word_one (v : Byte) : word 0x01 v = 0x0100 ||| v.setWidth 16 :=
  BitVec.append_def _ _

theorem lowByte_add (a : Addr) (v : Byte) :
    lowByte a + v = BitVec.ofNat 8 ((a.toNat % 256 + v.toNat) % 256) := by
  apply BitVec.eq_of_toNat_eq
  simp [lowByte_toNat]

theorem word_one_lowByte_add (sp : Addr) (v : Byte) :
    word 0x01 (lowByte sp + v) = 0x0100 ||| BitVec.ofNat 16 ((sp.toNat % 256 + v.toNat) % 256) := by
  rw [word_one, lowByte_add, BitVec.setWidth_ofNat_of_le_of_lt (by decide) (Nat.mod_lt _ (by decide))]

theorem spUp_eq (sp : Addr) : spUp sp = 0x0100 ||| BitVec.ofNat 16 ((sp.toNat % 256 + 1) % 256) :=
  word_one_lowByte_add sp 1

theorem spDown_eq (sp : Addr) : spDown sp = 0x0100 ||| BitVec.ofNat 16 ((sp.toNat % 256 + 255) % 256) := by
  rw [spDown, BitVec.sub_eq_add_neg]
  exact word_one_lowByte_add sp (-1)

/-! ### The transfers -/

theorem implied_ready (body : State → State) (h : Ready s) : implied body s = .next (body (afterImplied s)) := by
  rw [implied, dummyReadPc, dummyRead_ready h, andThen_next]
  rfl

/-- Settles O45: the closed forms of push and pull with SP as a number, and of the two implied transfers (D24). -/
theorem theStackPointerMovesInsidePage1 : Obligations.TheStackPointerMovesInsidePage1 := by
  intro s hs
  refine ⟨fun v => ?_, ?_, ?_, ?_⟩
  · rw [push_ready hs, spDown_eq]
  · rw [pull_ready hs, spUp_eq]
  · rw [← word_one]
    exact implied_ready _ hs
  · have hn : bit (lowByte s.cpu.sp) 7 = s.cpu.sp.getLsbD 7 := by simp [bit, lowByte]
    have hz : (lowByte s.cpu.sp == 0) = decide (s.cpu.sp.toNat % 256 = 0) := by
      rw [← lowByte_toNat]
      exact decide_eq_decide.mpr BitVec.toNat_inj.symm
    rw [← hn, ← hz]
    exact implied_ready (fun s => assignX (lowByte s.cpu.sp) s) hs

end Sys2Proof.Machine
end

section
/-! The indexed dummy read and the page cross (40_pipelines.md R111, R112). -/

namespace Sys2Proof.Machine

theorem crossed_iff (base : Addr) (idx : Byte) :
    crossed base idx = true ↔ base.toNat % 256 + idx.toNat > 0xFF := by
  rw [crossed, decide_eq_true_iff, lowByte_toNat]

theorem wrapped_eq_ofNat (base : Addr) (idx : Byte) :
    wrapped base idx = word (highByte base) (BitVec.ofNat 8 ((base.toNat % 256 + idx.toNat) % 256)) := by
  rw [wrapped, lowByte_add]

theorem indexedDummyTarget_legacy (pc base : Addr) (idx : Byte) :
    indexedDummyTarget .legacy pc base idx = wrapped base idx := ite_self _

theorem indexedDummyTarget_extended {base : Addr} {idx : Byte} (pc : Addr) (h : crossed base idx = true) :
    indexedDummyTarget .extended pc base idx = pc - 1 := if_pos h

theorem indexedDummyTarget_of_not_crossed {base : Addr} {idx : Byte} (cls : CpuClass) (pc : Addr)
    (h : ¬crossed base idx = true) : indexedDummyTarget cls pc base idx = wrapped base idx := if_neg h

/-- Settles O54: the target by class on a carry, and without one the wrapped address, which is the effective one (D9). -/
theorem indexedDummyReadTargetFollowsTheClass : Obligations.IndexedDummyReadTargetFollowsTheClass := by
  intro base idx s wrap
  have hw : wrapped base idx = wrap := wrapped_eq_ofNat base idx
  rw [← crossed_iff, ← hw]
  refine ⟨fun hc hl => ?_, fun hc hl => ?_, fun hc => ⟨?_, ?_⟩⟩
  · rw [indexedDummyRead, hl, indexedDummyTarget_legacy]
  · rw [indexedDummyRead, hl, indexedDummyTarget_extended _ hc]
  · exact wrapped_of_not_crossed (by simpa using hc)
  · rw [indexedDummyRead, indexedDummyTarget_of_not_crossed _ _ hc]

/-- Settles O55 by `crossed_eq`. -/
theorem indexingCrossesAPageWhenTheLowByteCarries : Obligations.IndexingCrossesAPageWhenTheLowByteCarries := by
  intro base idx
  rw [crossed_eq, decide_eq_true_iff]

end Sys2Proof.Machine
end

section
/-! The forms of a mnemonic at once (40_pipelines.md R114): a read or write kind in the mode of each form, and what the
form does on a ready machine. -/

namespace Sys2Proof.Machine

variable {k : AccessKind} {m : Mode} {s : State} {forms : List Instr} {i : Instr}

/-- The modes whose operand is the byte at an effective address (R122 to R128). -/
def memoryModes : List Mode := [.zp, .zpx, .zpy, .abs, .absx, .absy, .indx, .indy]

theorem addresses_pipeline (hm : m ∈ memoryModes) : Addresses k m (pipeline k m) := by
  cases m with
  | zp => exact addresses_zp
  | zpx => exact addresses_zpx
  | zpy => exact addresses_zpy
  | abs => exact addresses_abs
  | absx =>
    cases k with
    | read => exact addresses_absx_read
    | write | rmw => exact addresses_absx_write (by decide)
  | absy =>
    cases k with
    | read => exact addresses_absy_read
    | write | rmw => exact addresses_absy_write (by decide)
  | indx => exact addresses_indx
  | indy =>
    cases k with
    | read => exact addresses_indy_read
    | write | rmw => exact addresses_indy_write (by decide)
  | imp | acc | imm | ind | rel => exact absurd hm (by decide)

theorem readIn_ready (hm : m ∈ .imm :: memoryModes) (body : Byte → State → State) (h : Ready s) :
    readIn m body s = .next (body (memAt s (eaOf m s)) (afterBus (readBus m s) (pcAfter m s) s)) := by
  rcases List.mem_cons.mp hm with rfl | hm
  · exact immediate_ready body h
  · have not_imm : m ≠ .imm := by rintro rfl; exact absurd hm (by decide)
    rw [readIn, if_neg not_imm, readKind_ready (addresses_pipeline hm) body h]

/-- Forms that are of the read kind with one `body` run it on their operand, after their accesses. -/
theorem exec_readForm {body : Byte → State → State}
    (hf : forms.map exec = forms.map fun i => readIn (modeOf i) body)
    (hm : ∀ i ∈ forms, modeOf i ∈ .imm :: memoryModes) (hi : i ∈ forms) (h : Ready s) :
    exec i s = .next (body (operandOf i s) (afterRead i s)) := by
  rw [List.map_inj_left.mp hf i hi]
  exact readIn_ready (hm i hi) body h

/-- Forms that are of the write kind with one `value`, a register's, store it as it was at c2. -/
theorem exec_writeForm {value : Cpu → Byte}
    (hf : forms.map exec = forms.map fun i => writeKind (pipeline .write (modeOf i)) value)
    (hm : ∀ i ∈ forms, modeOf i ∈ memoryModes)
    (hv : ∀ es pc, value (afterBus es pc s).cpu = value s.cpu) (hi : i ∈ forms) (h : Ready s) :
    exec i s = .next (afterWrite i (value s.cpu) s) := by
  rw [List.map_inj_left.mp hf i hi]
  exact writeKind_ready (addresses_pipeline (hm i hi)) hv h

end Sys2Proof.Machine
end

section
/-! Loads, stores and transfers (41_load_store_transfer.md R200 to R209). -/

namespace Sys2Proof.Machine

/-- Settles O21: each mnemonic's forms are of the read kind with `assign` to its register as their body. -/
theorem loadsPutTheOperandInTheRegister : Obligations.LoadsPutTheOperandInTheRegister := by
  refine ⟨rfl, rfl, rfl, fun s hs => ⟨fun i hi => ?_, fun i hi => ?_, fun i hi => ?_⟩⟩
  · exact exec_readForm (body := assignA) rfl (by decide) hi hs
  · exact exec_readForm (body := assignX) rfl (by decide) hi hs
  · exact exec_readForm (body := assignY) rfl (by decide) hi hs

/-- Settles O22: each mnemonic's forms are of the write kind with its register as their value. -/
theorem storesWriteTheRegisterAtTheEffectiveAddress :
    Obligations.StoresWriteTheRegisterAtTheEffectiveAddress := by
  refine ⟨rfl, rfl, rfl, fun s hs => ⟨fun i hi => ?_, fun i hi => ?_, fun i hi => ?_⟩⟩
  · exact exec_writeForm (value := (·.a)) rfl (by decide) (fun _ _ => rfl) hi hs
  · exact exec_writeForm (value := (·.x)) rfl (by decide) (fun _ _ => rfl) hi hs
  · exact exec_writeForm (value := (·.y)) rfl (by decide) (fun _ _ => rfl) hi hs

/-- Settles O23: each transfer is `assign` from its source, after the dummy read at PC. -/
theorem transfersCopyTheRegister : Obligations.TransfersCopyTheRegister := by
  refine ⟨rfl, fun s hs => ⟨?_, ?_, ?_, ?_⟩⟩
  · exact implied_ready (fun s => assignX s.cpu.a s) hs
  · exact implied_ready (fun s => assignY s.cpu.a s) hs
  · exact implied_ready (fun s => assignA s.cpu.x s) hs
  · exact implied_ready (fun s => assignA s.cpu.y s) hs

end Sys2Proof.Machine
end

section
/-! The binary paths of ADC and SBC (42_arithmetic.md R230, R232): the flags of a sum, and subtraction as the sum
with the complement. -/

namespace Sys2Proof.Machine

variable (a v b : Byte) (c : Bool)

theorem and_signBit_ne_zero (x : Byte) : (x &&& 0x80#8 != 0) = x.msb := by
  change (x &&& BitVec.twoPow 8 7 != 0) = x.getLsbD 7
  rw [BitVec.and_twoPow]
  cases x.getLsbD 7 <;> rfl

theorem testBit_eight {n : Nat} (h : n < 512) : n.testBit 8 = decide (n ≥ 256) := by
  rw [Nat.testBit_eq_decide_div_mod_eq]
  exact decide_eq_decide.mpr (by omega)

/-! ### Overflow -/

/-- The overflow flag of R230. -/
def sumOverflows : Bool :=
  let b : Byte := BitVec.ofNat 8 (a.toNat + v.toNat + c.toNat)
  (a ^^^ b) &&& ~~~(a ^^^ v) &&& 0x80 != 0

/-- R230's bit is set where the operands agree in sign and the result does not. -/
theorem overflowBit_iff_signs :
    ((a ^^^ b) &&& ~~~(a ^^^ v) &&& 0x80#8 != 0) = true ↔ a.msb = v.msb ∧ a.msb ≠ b.msb := by
  rw [and_signBit_ne_zero, BitVec.msb_and, BitVec.msb_not, BitVec.msb_xor, BitVec.msb_xor]
  cases a.msb <;> cases v.msb <;> cases b.msb <;> decide

theorem sumOverflows_iff :
    sumOverflows a v c = true ↔
      a.toInt + v.toInt + (c.toNat : Int) < -128 ∨ 127 < a.toInt + v.toInt + (c.toNat : Int) := by
  let b : Byte := BitVec.ofNat 8 (a.toNat + v.toNat + c.toNat)
  have hb : b.toNat = (a.toNat + v.toNat + c.toNat) % 256 := BitVec.toNat_ofNat ..
  have ha := a.isLt
  have hv := v.isLt
  have hc := c.toNat_le
  refine (overflowBit_iff_signs a v b).trans ?_
  simp only [BitVec.msb_eq_decide, BitVec.toInt_eq_toNat_cond, decide_eq_decide, ne_eq]
  omega

/-! ### Subtraction -/

/-- `1 - C` (R232). -/
def borrow : Int := if c then 0 else 1

theorem borrow_eq_sub : borrow c = (1 - c.toNat : Nat) := by cases c <;> rfl

theorem borrow_eq_not : borrow c = ((!c).toNat : Int) := by cases c <;> rfl

/-- The overflow flag of R232. -/
def differenceOverflows : Bool :=
  let b := BitVec.ofInt 8 (a.toNat - v.toNat - borrow c)
  (a ^^^ b) &&& (a ^^^ v) &&& 0x80 != 0

theorem ofInt_difference :
    BitVec.ofInt 8 (a.toNat - v.toNat - borrow c) = BitVec.ofNat 8 (a.toNat + (~~~v).toNat + c.toNat) := by
  have hv := v.isLt
  have hc := c.toNat_le
  apply BitVec.eq_of_toNat_eq
  rw [borrow_eq_sub, BitVec.toNat_ofInt, BitVec.toNat_ofNat, BitVec.toNat_not]
  omega

theorem not_xor_not : ~~~(a ^^^ ~~~v) = a ^^^ v := by
  ext i hi
  simp

/-- A borrow is a carry of the complement that is missing. -/
theorem differenceOverflows_eq : differenceOverflows a v c = sumOverflows a (~~~v) c := by
  rw [differenceOverflows, ofInt_difference, sumOverflows, not_xor_not]

theorem toInt_not : (~~~v).toInt = -1 - v.toInt := by
  have := v.isLt
  simp only [BitVec.toInt_eq_toNat_cond, BitVec.toNat_not]
  omega

theorem differenceOverflows_iff :
    differenceOverflows a v c = true ↔
      a.toInt - v.toInt - ((!c).toNat : Int) < -128 ∨ 127 < a.toInt - v.toInt - ((!c).toNat : Int) := by
  have hc := c.toNat_le
  rw [differenceOverflows_eq, sumOverflows_iff, toInt_not, ← borrow_eq_not, borrow_eq_sub]
  omega

end Sys2Proof.Machine
end

section
/-! The decimal corrections (42_arithmetic.md R231, R233; decisions D4 and D5), and with them all that ADC and SBC
compute, in both modes. -/

namespace Sys2Proof.Machine

theorem toNat_decide (p : Prop) [Decidable p] : (decide p).toNat = if p then 1 else 0 := by
  simp [Bool.toNat, Bool.cond_decide]

/-! ### Addition -/

/-- The low digits' sum before its correction (R231). -/
def lowSum (a v : Byte) (c : Nat) : Nat := a.toNat % 16 + v.toNat % 16 + c

/-- The high digits' sum before its correction, with the low digit's carry (R231). -/
def highSum (a v : Byte) (c : Nat) : Nat :=
  a.toNat / 16 + v.toNat / 16 + if lowSum a v c > 9 then 1 else 0

/-- A digit's sum corrected (R231). -/
def sumDigit (d : Nat) : Nat := (d + if d > 9 then 6 else 0) % 16

theorem decimalAdjustAdd_eq (dc : AdcDecCarry) (a v : Byte) (c : Nat) (f : Flags) :
    decimalAdjustAdd dc a v c f =
      (BitVec.ofNat 8 (sumDigit (highSum a v c) * 16 + sumDigit (lowSum a v c)),
        { f with c := if dc = .decimal then decide (highSum a v c > 9) else f.c }) := by
  simp only [decimalAdjustAdd, sumDigit, highSum, lowSum, toNat_decide, decide_eq_true_iff]
  cases dc <;> rfl

theorem addWithCarry_eq (dc : AdcDecCarry) (f : Flags) (a v : Byte) :
    let sum := a.toNat + v.toNat + f.c.toNat
    let lo := lowSum a v f.c.toNat
    let hi := highSum a v f.c.toNat
    let b : Byte := BitVec.ofNat 8 sum
    addWithCarry dc f a v =
      (if f.d then BitVec.ofNat 8 (sumDigit hi * 16 + sumDigit lo) else b,
        { f with
          n := b.getLsbD 7
          z := b == 0
          v := sumOverflows a v f.c
          c := if f.d ∧ dc = .decimal then decide (hi > 9) else decide (sum ≥ 256) }) := by
  intro sum lo hi b
  have hc : sum.testBit 8 = decide (sum ≥ 256) := by
    have := f.c.toNat_le
    exact testBit_eight (by omega)
  rw [← hc]
  simp only [addWithCarry, decimalAdjustAdd_eq]
  cases f with
  | mk _ _ d _ _ _ => cases d <;> cases dc <;> rfl

/-! ### Subtraction -/

/-- The low digits' difference before its correction (R233). -/
def lowDiff (a v : Byte) (bi : Int) : Int := (a.toNat % 16 : Nat) - (v.toNat % 16 : Nat) - bi

/-- The high digits' difference before its correction, with the low digit's borrow (R233). -/
def highDiff (a v : Byte) (bi : Int) : Int :=
  (a.toNat / 16 : Nat) - (v.toNat / 16 : Nat) - if lowDiff a v bi < 0 then 1 else 0

/-- A digit's difference corrected (R233). -/
def diffDigit (d : Int) : Int := (d - if d < 0 then 6 else 0) % 16

theorem decimalAdjustSub_eq (a v : Byte) (bi : Nat) :
    decimalAdjustSub a v bi =
      BitVec.ofInt 8 (diffDigit (highDiff a v bi) * 16 + diffDigit (lowDiff a v bi)) := by
  simp only [decimalAdjustSub, diffDigit, highDiff, lowDiff, toNat_decide, decide_eq_true_iff, Nat.cast_ite]
  rfl

theorem subtractWithBorrow_eq (f : Flags) (a v : Byte) :
    let diff : Int := a.toNat - v.toNat - borrow f.c
    let lo := lowDiff a v (borrow f.c)
    let hi := highDiff a v (borrow f.c)
    let b := BitVec.ofInt 8 diff
    subtractWithBorrow f a v =
      (if f.d then BitVec.ofInt 8 (diffDigit hi * 16 + diffDigit lo) else b,
        { f with
          n := b.getLsbD 7
          z := b == 0
          v := differenceOverflows a v f.c
          c := decide (diff ≥ 0) }) := by
  simp only [differenceOverflows, borrow_eq_sub]
  rw [← decimalAdjustSub_eq]
  rfl

end Sys2Proof.Machine
end

section
/-! Decimal mode on BCD digits (42_arithmetic.md R231, R233): there a corrected digit is the digit modulo 10 and its
carry or borrow the quotient. -/

namespace Sys2Proof.Machine

variable {f : Flags} {a v : Byte}

/-- Both digits of `b` are decimal. -/
structure IsBcd (b : Byte) : Prop where
  low : b.toNat % 16 ≤ 9
  high : b.toNat / 16 ≤ 9

/-- The number that the digits of `b` write. -/
def decimalValue (b : Byte) : Nat := b.toNat / 16 * 10 + b.toNat % 16

/-! ### Digits -/

theorem sumDigit_eq_mod {d : Nat} (h : d ≤ 19) : sumDigit d = d % 10 := by
  unfold sumDigit
  split <;> omega

theorem diffDigit_eq_mod {d : Int} (h : -10 ≤ d ∧ d ≤ 9) : diffDigit d = d % 10 := by
  unfold diffDigit
  split <;> omega

theorem digits_ofNat {h l : Nat} (hh : h ≤ 9) (hl : l ≤ 9) :
    (BitVec.ofNat 8 (h * 16 + l)).toNat / 16 = h ∧ (BitVec.ofNat 8 (h * 16 + l)).toNat % 16 = l := by
  rw [BitVec.toNat_ofNat]
  omega

theorem digits_ofInt {h l : Int} (hh : 0 ≤ h ∧ h ≤ 9) (hl : 0 ≤ l ∧ l ≤ 9) :
    ((BitVec.ofInt 8 (h * 16 + l)).toNat / 16 : Nat) = h ∧
      ((BitVec.ofInt 8 (h * 16 + l)).toNat % 16 : Nat) = l := by
  rw [BitVec.toNat_ofInt]
  omega

section
variable (ha : IsBcd a) (hv : IsBcd v)
include ha hv

/-! ### Addition -/

theorem lowSum_le (c : Bool) : lowSum a v c.toNat ≤ 19 := by
  have := ha.low
  have := hv.low
  have := c.toNat_le
  unfold lowSum
  omega

theorem highSum_eq (c : Bool) :
    highSum a v c.toNat = a.toNat / 16 + v.toNat / 16 + lowSum a v c.toNat / 10 := by
  have := lowSum_le ha hv c
  unfold highSum
  split <;> omega

theorem addWithCarry_digits (hd : f.d = true) (dc : AdcDecCarry) :
    (addWithCarry dc f a v).1.toNat / 16 = highSum a v f.c.toNat % 10 ∧
      (addWithCarry dc f a v).1.toNat % 16 = lowSum a v f.c.toNat % 10 := by
  have hlo := lowSum_le ha hv f.c
  have hhi : highSum a v f.c.toNat ≤ 19 := by
    have := ha.high
    have := hv.high
    have := highSum_eq ha hv f.c
    omega
  rw [addWithCarry_eq, if_pos hd, sumDigit_eq_mod hhi, sumDigit_eq_mod hlo]
  exact digits_ofNat (by omega) (by omega)

/-- Two-digit decimal addition; the carry is the default one of D4. -/
theorem addWithCarry_decimal (hd : f.d = true) :
    let sum := decimalValue a + decimalValue v + f.c.toNat
    let r := addWithCarry .decimal f a v
    decimalValue r.1 = sum % 100 ∧ IsBcd r.1 ∧ r.2.c = decide (sum ≥ 100) := by
  intro sum r
  obtain ⟨high, low⟩ : r.1.toNat / 16 = _ ∧ r.1.toNat % 16 = _ := addWithCarry_digits ha hv hd .decimal
  have carry : r.2.c = decide (highSum a v f.c.toNat > 9) :=
    (congrArg (·.2.c) (addWithCarry_eq ..)).trans (if_pos ⟨hd, rfl⟩)
  have hsum : highSum a v f.c.toNat * 10 + lowSum a v f.c.toNat % 10 = sum := by
    rw [highSum_eq ha hv]
    unfold sum decimalValue lowSum
    omega
  refine ⟨?_, ⟨?_, ?_⟩, ?_⟩
  · rw [decimalValue, high, low]
    omega
  · omega
  · omega
  · rw [carry]
    exact decide_eq_decide.mpr (by omega)

/-! ### Subtraction -/

theorem lowDiff_bounds (c : Bool) : -10 ≤ lowDiff a v (borrow c) ∧ lowDiff a v (borrow c) ≤ 9 := by
  have := ha.low
  have := hv.low
  have := (!c).toNat_le
  rw [borrow_eq_not]
  unfold lowDiff
  omega

theorem highDiff_eq (c : Bool) :
    highDiff a v (borrow c) =
      (a.toNat / 16 : Nat) - (v.toNat / 16 : Nat) + lowDiff a v (borrow c) / 10 := by
  have := lowDiff_bounds ha hv c
  unfold highDiff
  split <;> omega

theorem subtractWithBorrow_digits (hd : f.d = true) :
    ((subtractWithBorrow f a v).1.toNat / 16 : Nat) = highDiff a v (borrow f.c) % 10 ∧
      ((subtractWithBorrow f a v).1.toNat % 16 : Nat) = lowDiff a v (borrow f.c) % 10 := by
  have hlo := lowDiff_bounds ha hv f.c
  have hhi : -10 ≤ highDiff a v (borrow f.c) ∧ highDiff a v (borrow f.c) ≤ 9 := by
    have := ha.high
    have := hv.high
    have := highDiff_eq ha hv f.c
    omega
  rw [subtractWithBorrow_eq, if_pos hd, diffDigit_eq_mod hhi, diffDigit_eq_mod hlo]
  exact digits_ofInt (by omega) (by omega)

/-- Two-digit decimal subtraction; C compares the binary values, which BCD orders as their decimal ones. -/
theorem subtractWithBorrow_decimal (hd : f.d = true) :
    let take := decimalValue v + (!f.c).toNat
    let r := subtractWithBorrow f a v
    decimalValue r.1 = (decimalValue a + 100 - take) % 100 ∧ IsBcd r.1 ∧
      r.2.c = decide (take ≤ decimalValue a) := by
  intro take r
  obtain ⟨high, low⟩ : ((r.1.toNat / 16 : Nat) : Int) = _ ∧ ((r.1.toNat % 16 : Nat) : Int) = _ :=
    subtractWithBorrow_digits ha hv hd
  have noBorrow : r.2.c = decide ((a.toNat : Int) - v.toNat - borrow f.c ≥ 0) :=
    congrArg (·.2.c) (subtractWithBorrow_eq ..)
  obtain ⟨ha₀, ha₁⟩ := ha
  obtain ⟨hv₀, hv₁⟩ := hv
  have hc := (!f.c).toNat_le
  have hdiff : highDiff a v (borrow f.c) * 10 + lowDiff a v (borrow f.c) % 10 = decimalValue a - take := by
    rw [highDiff_eq ⟨ha₀, ha₁⟩ ⟨hv₀, hv₁⟩, borrow_eq_not]
    unfold take decimalValue lowDiff
    omega
  have htake : take ≤ 100 := by
    unfold take decimalValue
    omega
  refine ⟨?_, ⟨?_, ?_⟩, ?_⟩
  · have hr : decimalValue r.1 = r.1.toNat / 16 * 10 + r.1.toNat % 16 := rfl
    omega
  · omega
  · omega
  · rw [noBorrow, borrow_eq_not]
    exact decide_eq_decide.mpr (by unfold take decimalValue; omega)

end

end Sys2Proof.Machine
end

section
/-! Increments and decrements as numbers, and the rmw kind's forms at once (42_arithmetic.md R240 to R245,
40_pipelines.md R113). -/

namespace Sys2Proof.Machine

theorem add_eq_ofNat (v w : Byte) : v + w = BitVec.ofNat 8 ((v.toNat + w.toNat) % 256) := by
  apply BitVec.eq_of_toNat_eq
  simp

/-- Forms that are of the rmw kind with one `f` store the operand and then what `f` makes of it. -/
theorem exec_rmwForm {s : State} {forms : List Instr} {i : Instr} {f : Flags → Byte → Byte × Flags}
    (hf : forms.map exec = forms.map fun i => rmwKind (pipeline .rmw (modeOf i)) f)
    (hm : ∀ i ∈ forms, modeOf i ∈ memoryModes) (hi : i ∈ forms) (h : Ready s) :
    exec i s = .next ((afterRmw i (f s.cpu.flags (operandOf i s)).1 s).setFlags
      (f s.cpu.flags (operandOf i s)).2) := by
  rw [List.map_inj_left.mp hf i hi]
  exact rmwKind_ready (addresses_pipeline (hm i hi)) f h

end Sys2Proof.Machine
end

section
/-! Add, subtract, compare, increment and decrement (42_arithmetic.md R230 to R245). -/

namespace Sys2Proof.Machine

/-- Settles O24: the forms are of the read kind with `adcBody`, whose sum is `addWithCarry_eq` (D4, D5). -/
theorem adcAddsWithCarryInBothModes : Obligations.AdcAddsWithCarryInBothModes := by
  intro s hs i hi
  rw [exec_readForm (body := adcBody) rfl (by decide) hi hs, adcBody, addWithCarry_eq]
  rfl

/-- Settles O25: the forms are of the read kind with `sbcBody`, whose difference is `subtractWithBorrow_eq` (D5). -/
theorem sbcSubtractsWithBorrowInBothModes : Obligations.SbcSubtractsWithBorrowInBothModes := by
  intro s hs i hi
  rw [exec_readForm (body := sbcBody) rfl (by decide) hi hs, sbcBody, subtractWithBorrow_eq]
  rfl

/-- Settles O26: overflow by the signs of operands and result, for a difference through the complement. -/
theorem overflowIsSignedOverflowOfTheBinaryPath : Obligations.OverflowIsSignedOverflowOfTheBinaryPath := by
  intro dc f a v
  rw [addWithCarry_eq, subtractWithBorrow_eq]
  refine ⟨sumOverflows_iff a v f.c, differenceOverflows_iff a v f.c, ?_⟩
  rw [decide_eq_true_iff, borrow_eq_not]
  omega

/-- Settles O27: digit by digit, a sum or difference modulo 10 with its carry or borrow (D4). -/
theorem decimalModeIsDecimalArithmeticOnBcdDigits :
    Obligations.DecimalModeIsDecimalArithmeticOnBcdDigits := by
  intro f a v hd ha₀ ha₁ hv₀ hv₁
  have ha : IsBcd a := ⟨ha₀, ha₁⟩
  have hv : IsBcd v := ⟨hv₀, hv₁⟩
  obtain ⟨sum, sumBcd, carry⟩ := addWithCarry_decimal ha hv hd
  obtain ⟨diff, diffBcd, noBorrow⟩ := subtractWithBorrow_decimal ha hv hd
  exact ⟨sum, sumBcd.low, sumBcd.high, carry, diff, diffBcd.low, diffBcd.high, noBorrow⟩

/-- Settles O28: each mnemonic's forms are of the read kind with `compare` of its register as their body. -/
theorem comparesSetOnlyNZAndC : Obligations.ComparesSetOnlyNZAndC := by
  refine ⟨rfl, rfl, rfl, fun s hs => ⟨fun i hi => ?_, fun i hi => ?_, fun i hi => ?_⟩⟩
  · exact exec_readForm (body := compareBody (·.a)) rfl (by decide) hi hs
  · exact exec_readForm (body := compareBody (·.x)) rfl (by decide) hi hs
  · exact exec_readForm (body := compareBody (·.y)) rfl (by decide) hi hs

/-- Settles O29: the memory forms are of the rmw kind with `incByte` and `decByte`, the register forms `assign`
after the dummy read at PC; the results as numbers by `add_eq_ofNat`. -/
theorem incrementsAndDecrementsWrapAndSetNZ : Obligations.IncrementsAndDecrementsWrapAndSetNZ := by
  refine ⟨rfl, rfl, rfl, ?_⟩
  intro s hs nz up down
  have hup (v : Byte) : up v = v + 1 := (add_eq_ofNat v 1).symm
  have hdown (v : Byte) : down v = v - 1 := by
    rw [BitVec.sub_eq_add_neg]
    exact (add_eq_ofNat v (-1)).symm
  simp only [hup, hdown]
  refine ⟨fun i hi => ?_, fun i hi => ?_, ?_, ?_, ?_, ?_⟩
  · exact exec_rmwForm (f := incByte) rfl (by decide) hi hs
  · exact exec_rmwForm (f := decByte) rfl (by decide) hi hs
  · exact implied_ready (fun s => assignX (s.cpu.x + 1) s) hs
  · exact implied_ready (fun s => assignY (s.cpu.y + 1) s) hs
  · exact implied_ready (fun s => assignX (s.cpu.x - 1) s) hs
  · exact implied_ready (fun s => assignY (s.cpu.y - 1) s) hs

end Sys2Proof.Machine
end

section
/-! Shifts and rotates as numbers (43_logic_shift.md R264 to R267): a rotate puts the carry in the bit that its shift
left clear, so its or is a sum. -/

namespace Sys2Proof.Machine

variable (v : Byte) (c : Bool)

theorem shiftLeft_one_toNat : (v <<< 1).toNat = 2 ^ 1 * (v.toNat % 128) := by
  rw [BitVec.toNat_shiftLeft, Nat.shiftLeft_eq]
  omega

theorem shiftLeft_one_eq_ofNat : v <<< 1 = BitVec.ofNat 8 (v.toNat * 2 % 256) := by
  apply BitVec.eq_of_toNat_eq
  rw [shiftLeft_one_toNat, BitVec.toNat_ofNat]
  omega

theorem ushiftRight_one_eq_ofNat : v >>> 1 = BitVec.ofNat 8 (v.toNat / 2) := by
  rw [← Nat.shiftRight_one, ← BitVec.toNat_ushiftRight, BitVec.ofNat_toNat, BitVec.setWidth_eq]

theorem carryLow_toNat : ((BitVec.ofBool c).setWidth 8).toNat = c.toNat := by
  cases c <;> rfl

theorem carryHigh_toNat : ((BitVec.ofBool c).setWidth 8 <<< 7).toNat = 2 ^ 7 * c.toNat := by
  cases c <;> rfl

theorem shiftLeft_one_or_carryLow :
    v <<< 1 ||| (BitVec.ofBool c).setWidth 8 = BitVec.ofNat 8 ((v.toNat * 2 + c.toNat) % 256) := by
  have hc : c.toNat < 2 ^ 1 := c.toNat_lt
  apply BitVec.eq_of_toNat_eq
  rw [BitVec.toNat_or, shiftLeft_one_toNat, carryLow_toNat, ← Nat.two_pow_add_eq_or_of_lt hc, BitVec.toNat_ofNat]
  omega

theorem ushiftRight_one_or_carryHigh :
    v >>> 1 ||| (BitVec.ofBool c).setWidth 8 <<< 7 = BitVec.ofNat 8 (v.toNat / 2 + 128 * c.toNat) := by
  have hv : v.toNat / 2 < 2 ^ 7 := Nat.div_lt_of_lt_mul v.isLt
  have hc : c.toNat < 2 := c.toNat_lt
  apply BitVec.eq_of_toNat_eq
  rw [BitVec.toNat_or, BitVec.toNat_ushiftRight, Nat.shiftRight_one, carryHigh_toNat, Nat.or_comm,
    ← Nat.two_pow_add_eq_or_of_lt hv, BitVec.toNat_ofNat]
  omega

end Sys2Proof.Machine
end

section
/-! Logic, the bit test, shifts and rotates (43_logic_shift.md R260 to R267). -/

namespace Sys2Proof.Machine

/-- Settles O30: each mnemonic's forms are of the read kind with `assign` of its combination to A as their body. -/
theorem logicInstructionsCombineWithA : Obligations.LogicInstructionsCombineWithA := by
  refine ⟨rfl, rfl, rfl, fun s hs => ⟨fun i hi => ?_, fun i hi => ?_, fun i hi => ?_⟩⟩
  · exact exec_readForm (body := andBody) rfl (by decide) hi hs
  · exact exec_readForm (body := oraBody) rfl (by decide) hi hs
  · exact exec_readForm (body := eorBody) rfl (by decide) hi hs

/-- Settles O31: both forms are of the read kind with `bitBody`, which writes flags only. -/
theorem bitTestsMemoryAgainstA : Obligations.BitTestsMemoryAgainstA :=
  ⟨rfl, fun _ hs _ hi => exec_readForm (body := bitBody) rfl (by decide) hi hs⟩

/-- Settles O32: the memory forms are of the rmw kind with their mnemonic's function of flags and byte, the
accumulator forms apply it to A after the dummy read at PC; its results as numbers by the four lemmas on shifts
and rotates. -/
theorem shiftsAndRotatesMoveBitsThroughCarry : Obligations.ShiftsAndRotatesMoveBitsThroughCarry := by
  refine ⟨rfl, rfl, rfl, rfl, ?_⟩
  intro s hs cin asl lsr rol ror out
  have hasl (v : Byte) : asl v = v <<< 1 := (shiftLeft_one_eq_ofNat v).symm
  have hlsr (v : Byte) : lsr v = v >>> 1 := (ushiftRight_one_eq_ofNat v).symm
  have hrol (v : Byte) : rol v = v <<< 1 ||| (BitVec.ofBool s.cpu.flags.c).setWidth 8 :=
    (shiftLeft_one_or_carryLow v s.cpu.flags.c).symm
  have hror (v : Byte) : ror v = v >>> 1 ||| (BitVec.ofBool s.cpu.flags.c).setWidth 8 <<< 7 :=
    (ushiftRight_one_or_carryHigh v s.cpu.flags.c).symm
  simp only [hasl, hlsr, hrol, hror]
  refine ⟨fun i hi => ?_, fun i hi => ?_, fun i hi => ?_, fun i hi => ?_, ?_, ?_, ?_, ?_⟩
  · exact exec_rmwForm (f := aslByte) rfl (by decide) hi hs
  · exact exec_rmwForm (f := lsrByte) rfl (by decide) hi hs
  · exact exec_rmwForm (f := rolByte) rfl (by decide) hi hs
  · exact exec_rmwForm (f := rorByte) rfl (by decide) hi hs
  · exact implied_ready (onAccumulator aslByte) hs
  · exact implied_ready (onAccumulator lsrByte) hs
  · exact implied_ready (onAccumulator rolByte) hs
  · exact implied_ready (onAccumulator rorByte) hs

end Sys2Proof.Machine
end

section
/-! The stack accesses in the middle of an instruction (40_pipelines.md R103 to R110), with `afterBus` still the
normal form, and the vectored entry they make up (44_control.md R304, 60_exceptions.md R408). -/

namespace Sys2Proof.Machine

@[simp] theorem State.setSp_setSp (s : State) (sp sp' : Addr) : (s.setSp sp).setSp sp' = s.setSp sp' := rfl

@[simp] theorem State.setFlags_setSp (s : State) (f : Flags) (sp : Addr) :
    (s.setFlags f).setSp sp = (s.setSp sp).setFlags f := rfl

@[simp] theorem readOf_setSp (s : State) (sp a : Addr) : readOf (s.setSp sp) a = readOf s a := rfl
@[simp] theorem readOf_setFlags (s : State) (f : Flags) (a : Addr) : readOf (s.setFlags f) a = readOf s a := rfl

/-! Register updates move inside `afterBus`, to the state before the accesses. -/

section
variable (s : State) (es : List BusAccess) (pc : Addr)

@[simp] theorem afterBus_sp : (afterBus es pc s).cpu.sp = s.cpu.sp := rfl
@[simp] theorem setPc_afterBus (pc' : Addr) : (afterBus es pc s).setPc pc' = afterBus es pc' s := rfl
@[simp] theorem setSp_afterBus (sp : Addr) : (afterBus es pc s).setSp sp = afterBus es pc (s.setSp sp) := rfl
@[simp] theorem setFlags_afterBus (f : Flags) : (afterBus es pc s).setFlags f = afterBus es pc (s.setFlags f) := rfl

end

variable {s : State} (h : Ready s) (es : List BusAccess) (pc : Addr)
include h

/-- The first access of an instruction with no operand. -/
theorem dummyReadPc_ready : dummyReadPc s = .next ((), afterBus [readOf s s.cpu.pc] s.cpu.pc s) := by
  rw [dummyReadPc, dummyRead_ready h]; rfl

theorem dummyReadPc_afterBus :
    dummyReadPc (afterBus es pc s) = .next ((), afterBus (es ++ [readOf s pc]) pc s) :=
  dummyRead_afterBus h es pc _

theorem dummyReadStack_afterBus :
    dummyReadStack (afterBus es pc s) = .next ((), afterBus (es ++ [readOf s s.cpu.sp]) pc s) :=
  dummyRead_afterBus h es pc _

theorem push_afterBus (v : Byte) :
    push v (afterBus es pc s) = .next ((),
      afterBus (es ++ [.write s.cpu.sp v]) pc ((storeAt s.cpu.sp v s).setSp (spDown s.cpu.sp))) := by
  rw [push, afterBus_sp, memWrite_afterBus h, andThen_next, setSp_afterBus, afterBus_sp, storeAt_cpu]

theorem pull_afterBus :
    pull (afterBus es pc s) = .next (memAt s (spUp s.cpu.sp),
      afterBus (es ++ [readOf s (spUp s.cpu.sp)]) pc (s.setSp (spUp s.cpu.sp))) :=
  memRead_afterBus ((ready_setSp s _).mpr h) es pc _

theorem pullFlags_afterBus :
    pullFlags (afterBus es pc s) = .next ((),
      afterBus (es ++ [readOf s (spUp s.cpu.sp)]) pc
        ((s.setSp (spUp s.cpu.sp)).setFlags (unpackP (memAt s (spUp s.cpu.sp))))) := by
  rw [pullFlags, pull_afterBus h, andThen_next, setFlags_afterBus]

theorem enterHandler_afterBus (b : Bool) (vec : Addr) :
    enterHandler b vec (afterBus es pc s) = .next (handlerEntry b vec es pc s) := by
  simp [enterHandler, pushFlags, push_afterBus, memRead_afterBus, storeAt_setSp, handlerEntry, readOf, Flags.setI, h]

end Sys2Proof.Machine
end

section
/-! Branches, jumps, subroutines, BRK, RTI and NOP on a ready machine (44_control.md R290 to R306). -/

namespace Sys2Proof.Machine

variable {s : State}

/-- R290: the third cycle is taken with the branch, the fourth on a page cross (D12). -/
theorem branch_ready {cond : Flags → Bool} {taken : Bool} (ht : cond s.cpu.flags = taken) (h : Ready s) :
    let next := s.cpu.pc + 1
    let target := next + sext (byte1 s)
    branch cond s = .next
      (if taken then
        (if highByte target = highByte next then afterBus [readOf s s.cpu.pc, readOf s next] target s
        else
          afterBus [readOf s s.cpu.pc, readOf s next, readOf s (word (highByte next) (lowByte target))] target s)
      else afterBus [readOf s s.cpu.pc] next s) := by
  rw [branch, ht, fetchByte_atOperand h, andThen_next]
  cases taken with
  | false => rfl
  | true =>
    simp only [Bool.not_true, Bool.false_eq_true, if_false, if_true, dummyReadPc_afterBus h, dummyRead_afterBus h,
      andThen_next, afterBus_pc, ne_eq, ite_not]
    split <;> rfl

/-- Settles O33: each branch is `branch` of its own condition, which `branch_ready` reads before the first cycle. -/
theorem branchesFollowTheirFlag : Obligations.BranchesFollowTheirFlag := by
  intro s hs i hi next target taken
  cases i with
  | bpl => exact branch_ready (cond := (!·.n)) (beq_false _).symm hs
  | bvc => exact branch_ready (cond := (!·.v)) (beq_false _).symm hs
  | bcc => exact branch_ready (cond := (!·.c)) (beq_false _).symm hs
  | bne => exact branch_ready (cond := (!·.z)) (beq_false _).symm hs
  | bmi => exact branch_ready (cond := (·.n)) (beq_true _).symm hs
  | bvs => exact branch_ready (cond := (·.v)) (beq_true _).symm hs
  | bcs => exact branch_ready (cond := (·.c)) (beq_true _).symm hs
  | beq => exact branch_ready (cond := (·.z)) (beq_true _).symm hs
  | _ => exact absurd hi (by decide)

theorem execJmpAbs_ready (h : Ready s) :
    execJmpAbs s = .next
      (afterBus [readOf s s.cpu.pc, readOf s (s.cpu.pc + 1)] (word (byte2 s) (byte1 s)) s) := by
  simp [execJmpAbs, fetchByte_atOperand h, memRead_afterBus h, byte2]

theorem execJmpInd_ready (h : Ready s) :
    let lo := byte1 s
    let hi := byte2 s
    execJmpInd s = .next
      (afterBus [readOf s s.cpu.pc, readOf s (s.cpu.pc + 1), readOf s (word hi lo), readOf s (word hi (lo + 1))]
        (word (memAt s (word hi (lo + 1))) (memAt s (word hi lo))) s) := by
  simp [execJmpInd, fetchByte_atOperand h, fetchByte_afterBus h, memRead_afterBus h, byte2]

theorem execJsr_ready (h : Ready s) :
    let last := s.cpu.pc + 1
    let sp₁ := spDown s.cpu.sp
    let u := storeAt sp₁ (lowByte last) (storeAt s.cpu.sp (highByte last) s)
    execJsr s = .next
      ((afterBus
        [readOf s s.cpu.pc, readOf s s.cpu.sp, .write s.cpu.sp (highByte last), .write sp₁ (lowByte last),
          readOf u last]
        (word (memAt u last) (byte1 s)) u).setSp (spDown sp₁)) := by
  simp [execJsr, fetchByte_atOperand, dummyReadStack_afterBus, push_afterBus, memRead_afterBus, storeAt_setSp, h]

theorem execRts_ready (h : Ready s) :
    let sp₁ := spUp s.cpu.sp
    let sp₂ := spUp sp₁
    let pulled := word (memAt s sp₂) (memAt s sp₁)
    execRts s = .next
      ((afterBus [readOf s s.cpu.pc, readOf s s.cpu.sp, readOf s sp₁, readOf s sp₂, readOf s pulled]
        (pulled + 1) s).setSp sp₂) := by
  simp [execRts, dummyReadPc_ready, dummyReadStack_afterBus, pull_afterBus, dummyRead_afterBus, h]

theorem execBrk_ready (h : Ready s) :
    execBrk s = .next (handlerEntry true irqVector [readOf s s.cpu.pc] (s.cpu.pc + 1) s) := by
  rw [execBrk, fetchByte_atOperand h, andThen_next, enterHandler_afterBus h]

theorem execRti_ready (h : Ready s) :
    let sp₁ := spUp s.cpu.sp
    let sp₂ := spUp sp₁
    let sp₃ := spUp sp₂
    execRti s = .next
      (((afterBus [readOf s s.cpu.pc, readOf s s.cpu.sp, readOf s sp₁, readOf s sp₂, readOf s sp₃]
        (word (memAt s sp₃) (memAt s sp₂)) s).setSp sp₃).setFlags (unpackP (memAt s sp₁))) := by
  simp [execRti, returnFromHandler, dummyReadPc_ready, dummyReadStack_afterBus, pullFlags_afterBus, pull_afterBus, h]

/-- Settles O34: both jumps load the last word they read, the indirect one by a pointer that stays in its page (D11). -/
theorem jumpsLoadPc : Obligations.JumpsLoadPc :=
  fun _ hs => ⟨execJmpAbs_ready hs, execJmpInd_ready hs⟩

/-- Settles O35: PC stands at the last byte when it is pushed, and the last read sees the two pushes. -/
theorem jsrPushesItsLastByteAddressBeforeItsLastFetch :
    Obligations.JsrPushesItsLastByteAddressBeforeItsLastFetch :=
  ⟨rfl, fun _ hs => execJsr_ready hs⟩

/-- Settles O36 by the closed form of RTS; the addresses are `spUp` once and twice. -/
theorem rtsPullsPcAndAddsOne : Obligations.RtsPullsPcAndAddsOne :=
  ⟨rfl, fun _ hs => execRts_ready hs⟩

/-- Settles O38: BRK is the vectored entry with B = 1, after one fetch (D13, D15). -/
theorem brkTakesTheVectoredEntry : Obligations.BrkTakesTheVectoredEntry :=
  fun _ hs => execBrk_ready hs

/-- Settles O39 by the closed form of RTI; `unpackP` takes the six flags bit by bit. -/
theorem rtiPullsTheFlagsAndPc : Obligations.RtiPullsTheFlagsAndPc :=
  ⟨rfl, fun _ hs => execRti_ready hs⟩

/-- Settles O41: NOP is the implied mode with nothing to do. -/
theorem nopOnlyTakesACycle : Obligations.NopOnlyTakesACycle :=
  ⟨rfl, fun _ hs => implied_ready id hs⟩

end Sys2Proof.Machine
end

section
/-! The stack read back (20_memory.md R52, 40_pipelines.md R106, R107): bytes stored at distinct cells, each read from
the cell it is written to, and SP up and down inside page 1. -/

namespace Sys2Proof.Machine

@[simp] theorem readCell_storeAt (s : State) (a b : Addr) (v : Byte) :
    readCell (storeAt a v s) b = readCell s b := by
  unfold storeAt; split <;> rfl

@[simp] theorem writeCell_storeAt (s : State) (a b : Addr) (v : Byte) :
    writeCell (storeAt a v s) b = writeCell s b := by
  unfold storeAt; split <;> rfl

theorem storeAt_host_wf {s : State} (hw : s.host.wf = true) (a : Addr) (v : Byte) :
    (storeAt a v s).host.wf = true := by
  unfold storeAt
  split
  · exact HostState.edit_wf (.storeCell _ v) hw
  · exact hw

theorem spUp_spDown {sp : Addr} (h : highByte sp = 0x01) : spUp (spDown sp) = sp := by
  rw [spUp, spDown, lowByte_word, BitVec.sub_add_cancel, ← h, word_highByte_lowByte]

/-- One push leaves SP in page 1 wherever it stood. -/
@[simp] theorem spUp_spDown_spDown (sp : Addr) : spUp (spDown (spDown sp)) = spDown sp :=
  spUp_spDown (highByte_word _ _)

variable {s : State} {a b c : Addr} (h : Ready s) (hw : s.host.wf = true)
  (ha : readCell s a = writeCell s a) (hb : readCell s b = writeCell s b) (hc : readCell s c = writeCell s c)
  (hab : readCell s a ≠ readCell s b) (hac : readCell s a ≠ readCell s c) (hbc : readCell s b ≠ readCell s c)

include h hw ha in
theorem memAt_storeAt_aliased (x : Byte) : memAt (storeAt a x s) a = x := by
  obtain ⟨hstorage, -⟩ := s.host.wf_iff.mp hw
  obtain ⟨k, hk⟩ := Option.isSome_iff_exists.mp (h.writable a)
  exact memAt_storeAt_same x hstorage hk (ha.trans hk)

include h hw ha hb hab

theorem memAt_storeAt_two (x y : Byte) :
    let u := storeAt b y (storeAt a x s)
    memAt u a = x ∧ memAt u b = y := by
  refine ⟨?_, memAt_storeAt_aliased ((ready_storeAt s a x).mpr h) (storeAt_host_wf hw a x) (by simpa using hb) y⟩
  rw [memAt_storeAt_other y (by simpa [← hb] using hab), memAt_storeAt_aliased h hw ha]

include hc hac hbc

theorem memAt_storeAt_three (x y z : Byte) :
    let u := storeAt c z (storeAt b y (storeAt a x s))
    memAt u a = x ∧ memAt u b = y ∧ memAt u c = z := by
  obtain ⟨readA, -⟩ := memAt_storeAt_two h hw ha hb hab x y
  obtain ⟨readB, readC⟩ := memAt_storeAt_two ((ready_storeAt s a x).mpr h) (storeAt_host_wf hw a x)
    (by simpa using hb) (by simpa using hc) (by simpa using hbc) y z
  refine ⟨?_, readB, readC⟩
  rw [memAt_storeAt_other z (by simpa [← hc] using hac), readA]

end Sys2Proof.Machine
end

section
/-! Returns (44_control.md R302 to R305, 60_exceptions.md R412): RTS after JSR, and RTI after any vectored entry. -/

namespace Sys2Proof.Machine

/-- Settles O37: RTS pulls the two bytes JSR pushed, which are the address of its last byte, and adds one. -/
theorem rtsReturnsPastTheJsr : Obligations.RtsReturnsPastTheJsr := by
  intro s p hs hwf sp₁ h₀ h₁ h₀₁
  obtain ⟨hpage, hhost⟩ := s.wf_iff.mp hwf
  have pulled := memAt_storeAt_two (b := spDown s.cpu.sp) hs hhost h₀ h₁ h₀₁
  have up₀ : spUp (spDown s.cpu.sp) = s.cpu.sp := spUp_spDown hpage
  refine ⟨_, _, execJsr_ready hs, execRts_ready (by simpa using hs), ?_, ?_⟩
  · simp [up₀, pulled, BitVec.add_assoc]
  · simp [up₀]

/-- RTI pulls the three bytes an entry pushed: the flags, whatever B is, and the return address. -/
theorem execRti_handlerEntry {s : State} (h : Ready s) (hwf : s.wf = true)
    (h₀ : readCell s s.cpu.sp = writeCell s s.cpu.sp)
    (h₁ : readCell s (spDown s.cpu.sp) = writeCell s (spDown s.cpu.sp))
    (h₂ : readCell s (spDown (spDown s.cpu.sp)) = writeCell s (spDown (spDown s.cpu.sp)))
    (h₀₁ : readCell s s.cpu.sp ≠ readCell s (spDown s.cpu.sp))
    (h₀₂ : readCell s s.cpu.sp ≠ readCell s (spDown (spDown s.cpu.sp)))
    (h₁₂ : readCell s (spDown s.cpu.sp) ≠ readCell s (spDown (spDown s.cpu.sp)))
    (b : Bool) (vec : Addr) (before : List BusAccess) (ret p : Addr) :
    ∃ u, execRti ((handlerEntry b vec before ret s).setPc p) = .next u ∧
      u.cpu.pc = ret ∧ u.cpu.sp = s.cpu.sp ∧ u.cpu.flags = s.cpu.flags := by
  obtain ⟨hpage, hhost⟩ := s.wf_iff.mp hwf
  have pulled := memAt_storeAt_three h hhost h₀ h₁ h₂ h₀₁ h₀₂ h₁₂
  have up₀ : spUp (spDown s.cpu.sp) = s.cpu.sp := spUp_spDown hpage
  refine ⟨_, execRti_ready (by simpa [handlerEntry] using h), ?_, ?_, ?_⟩
  · simp [handlerEntry, up₀, pulled]
  · simp [handlerEntry, up₀]
  · simp [handlerEntry, pulled, unpackP_packP]

/-- Settles O40: BRK is a vectored entry whose return address is two past it. -/
theorem rtiReturnsToTwoPastTheBrk : Obligations.RtiReturnsToTwoPastTheBrk := by
  intro s p hs hwf sp₁ sp₂ h₀ h₁ h₂ h₀₁ h₀₂ h₁₂
  obtain ⟨u, returned⟩ := execRti_handlerEntry hs hwf h₀ h₁ h₂ h₀₁ h₀₂ h₁₂ true irqVector [readOf s s.cpu.pc]
    (s.cpu.pc + 1) p
  exact ⟨_, u, execBrk_ready hs, returned⟩

end Sys2Proof.Machine
end

section
/-! Stack and flag instructions on a ready machine (45_stack_flags.md R330 to R340). -/

namespace Sys2Proof.Machine

/-- Bits 5 and 4 of the byte PHP and BRK push (R109, D13). -/
theorem packP_true_and_bits_5_4 (f : Flags) : packP true f &&& 0x30 = 0x30 := by
  refine BitVec.eq_of_getLsbD_eq fun k hk => ?_
  rw [BitVec.getLsbD_and, packP_getLsbD]
  interval_cases k <;> simp

variable {s : State} (h : Ready s)
include h

theorem execPha_ready :
    execPha s = .next
      ((afterBus [readOf s s.cpu.pc, .write s.cpu.sp s.cpu.a] s.cpu.pc (storeAt s.cpu.sp s.cpu.a s)).setSp
        (spDown s.cpu.sp)) := by
  rw [execPha, dummyReadPc_ready h, andThen_next, push_afterBus h]; rfl

theorem execPhp_ready :
    let p := packP true s.cpu.flags
    execPhp s = .next
      ((afterBus [readOf s s.cpu.pc, .write s.cpu.sp p] s.cpu.pc (storeAt s.cpu.sp p s)).setSp
        (spDown s.cpu.sp)) := by
  rw [execPhp, dummyReadPc_ready h, andThen_next, pushFlags, push_afterBus h]; rfl

theorem execPla_ready :
    let sp₁ := spUp s.cpu.sp
    execPla s = .next (assignA (memAt s sp₁)
      ((afterBus [readOf s s.cpu.pc, readOf s s.cpu.sp, readOf s sp₁] s.cpu.pc s).setSp sp₁)) := by
  rw [execPla, dummyReadPc_ready h, andThen_next, dummyReadStack_afterBus h, andThen_next, pull_afterBus h]; rfl

theorem execPlp_ready :
    let sp₁ := spUp s.cpu.sp
    execPlp s = .next
      (((afterBus [readOf s s.cpu.pc, readOf s s.cpu.sp, readOf s sp₁] s.cpu.pc s).setSp sp₁).setFlags
        (unpackP (memAt s sp₁))) := by
  rw [execPlp, dummyReadPc_ready h, andThen_next, dummyReadStack_afterBus h, andThen_next, pullFlags_afterBus h]; rfl

theorem implied_setFlag_ready (f : Flags → Flags) :
    implied (setFlag f) s = .next ((afterImplied s).setFlags (f s.cpu.flags)) :=
  implied_ready (setFlag f) h

omit h

/-- Settles O42 by the closed forms of PHA and PLA; `assign` is what sets N and Z. -/
theorem phaAndPlaMoveAThroughTheStack : Obligations.PhaAndPlaMoveAThroughTheStack :=
  ⟨rfl, rfl, fun _ hs => ⟨execPha_ready hs, execPla_ready hs⟩⟩

/-- Settles O43 by the closed forms of PHP and PLP; `unpackP` reads neither bit 5 nor bit 4. -/
theorem phpAndPlpMoveTheFlagsThroughTheStack : Obligations.PhpAndPlpMoveTheFlagsThroughTheStack :=
  fun s hs => ⟨packP_true_and_bits_5_4 s.cpu.flags, execPhp_ready hs, execPlp_ready hs⟩

/-- Settles O44: each is the implied mode with one flag's setter. -/
theorem flagInstructionsChangeOneFlag : Obligations.FlagInstructionsChangeOneFlag := by
  refine ⟨rfl, fun s hs => ⟨?clc, ?sec, ?cli, ?sei, ?cld, ?sed, ?clv⟩⟩
  case clc => exact implied_setFlag_ready hs (·.setC false)
  case sec => exact implied_setFlag_ready hs (·.setC true)
  case cli => exact implied_setFlag_ready hs (·.setI false)
  case sei => exact implied_setFlag_ready hs (·.setI true)
  case cld => exact implied_setFlag_ready hs (·.setD false)
  case sed => exact implied_setFlag_ready hs (·.setD true)
  case clv => exact implied_setFlag_ready hs (·.setV false)

end Sys2Proof.Machine
end

section
/-! The step at its boundary (60_exceptions.md R405 to R407, R409): which of the three it is, under any callbacks,
and the instruction it decodes where no interrupt is taken. -/

namespace Sys2Proof.Machine

variable {s : State}

theorem step_of_nmi (hn : s.host.nmi = true) :
    step s = interruptEntry nmiVector
      { s with host := { s.host with nmi := false }, took := .nmi, bus := [] } :=
  if_pos hn

theorem step_of_irq (hn : s.host.nmi = false) (hq : s.host.irq = true) (hi : s.cpu.flags.i = false) :
    step s = interruptEntry irqVector { s with took := .irq, bus := [] } := by
  simp only [step, stepFromBoundary, State.clearBus_host, State.clearBus_flags, hn, hq, hi]
  rfl

/-- The read of the opcode changes no PC, so the instruction runs one past where that read leaves it. -/
theorem runInstruction_eq (s : State) :
    runInstruction s = andThen (memRead s.cpu.pc s) fun op u =>
      runOpcode op s.cpu.pc (u.setPc (u.cpu.pc + 1)) := by
  rw [runInstruction, fetchByte]
  cases h : memRead s.cpu.pc s with
  | next r =>
    obtain ⟨op, u⟩ := r
    obtain ⟨_, ⟨_, -, rfl⟩, rfl⟩ := memRead_next h
    rfl
  | fault | refused => rfl

/-- Settles O6: the three kinds of start; the third fetches over the bus (D6, D14). -/
theorem stepTakesNmiThenIrqThenTheInstruction : Obligations.StepTakesNmiThenIrqThenTheInstruction := by
  refine fun s => ⟨step_of_nmi, step_of_irq, fun hn hq => ?_⟩
  have noEntry : NoEntry s := ⟨hn, fun irq => hq.resolve_left (by simp [irq])⟩
  rw [step_of_noEntry noEntry, runInstruction_eq]
  rfl

theorem runOpcode_of_table {op : Byte} {a : Addr} {i : Instr}
    (ht : tableGet freshDispatch s.params.dispatch op.toNat = .table) (hi : decodeOpcode op = some i) :
    runOpcode op a s = exec i s := by
  simp [runOpcode, ht, hi]

/-- Settles O5: the handler of the fetched byte is the instruction that the bytes' first one decodes to (D6). -/
theorem stepRunsTheDecodedInstruction : Obligations.StepRunsTheDecodedInstruction := by
  intro s e rest hs hn ht hd
  obtain ⟨hop, -⟩ := decode_cons_eq_ok_iff.mp hd
  rw [step_eq_runOpcode hs hn, runOpcode_of_table (s := fetched s) ht hop]

end Sys2Proof.Machine
end

section
/-! `Ready` is kept from boundary to boundary: with no watch bit set only stored bytes and the NMI line change. -/

namespace Sys2Proof.Machine

variable {s t u : State}

theorem Ready.unwatched (h : Ready s) : Unwatched s :=
  fun a => ⟨h.noIntercept a, h.noBreakRead a, h.noBreakWrite a⟩

/-- `Ready` does not see stored bytes. -/
theorem StoresOnly.ready (h : StoresOnly s t) (hs : Ready s) : Ready t := by
  refine hs.congr ?_ ?_ ?_ ?_ h.params <;> rw [h.host]

theorem Start.ready (h : Start s u) (hs : Ready s) : Ready u := by
  refine hs.congr ?_ ?_ ?_ ?_ h.params_eq <;> rw [h.host_eq]

theorem exec_ready {i : Instr} (hs : Ready s) (h : exec i s = .next t) : Ready t :=
  (StoresOnly.closed.exec h hs.unwatched).ready hs

theorem step_ready (hs : Ready s) (h : step s = .next t) : Ready t := by
  obtain ⟨u, hu, hstep⟩ := step_from_start h
  have hu' : Ready u := hu.ready hs
  exact (hstep StoresOnly.closed hu'.unwatched).ready hu'

end Sys2Proof.Machine
end

section
/-! Interrupt entries on a ready machine (60_exceptions.md R406 to R409, R412): what they leave, what the next step
does, and the return from them. -/

namespace Sys2Proof.Machine

variable {s t : State}

/-- The seven accesses of an entry (R408). -/
theorem interruptEntry_ready (vec : Addr) (hs : Ready s) :
    interruptEntry vec s =
      .next (handlerEntry false vec [readOf s s.cpu.pc, readOf s s.cpu.pc] s.cpu.pc s) := by
  rw [interruptEntry, dummyReadPc_ready hs, andThen_next, dummyReadPc_afterBus hs, andThen_next,
    enterHandler_afterBus hs]; rfl

@[simp] theorem handlerEntry_took (b : Bool) (vec : Addr) (before : List BusAccess) (ret : Addr) (s : State) :
    (handlerEntry b vec before ret s).took = s.took := by
  simp [handlerEntry, afterBus]

/-- A step that takes no interrupt reports so (R404). -/
theorem took_of_noEntry (hn : NoEntry s) (h : step s = .next t) : t.took = .none := by
  rw [step_of_noEntry hn] at h
  exact (advance_closed.runInstruction h).took

/-- Settles O48: the entry's closed form, the NMI dropped first (D13 to D15, log 7). -/
theorem nmiIsEnteredWhateverIIs : Obligations.NmiIsEnteredWhateverIIs :=
  fun _ hs hn => (step_of_nmi hn).trans (interruptEntry_ready nmiVector (hs.congr rfl rfl rfl rfl rfl))

theorem step_irq_ready (hs : Ready s) (hn : s.host.nmi = false) (hq : s.host.irq = true)
    (hi : s.cpu.flags.i = false) :
    step s = .next (handlerEntry false 0xFFFE [readOf s s.cpu.pc, readOf s s.cpu.pc] s.cpu.pc
      { s with took := .irq, bus := [] }) :=
  (step_of_irq hn hq hi).trans (interruptEntry_ready irqVector (hs.congr rfl rfl rfl rfl rfl))

/-- Settles O49: the entry's closed form (D13 to D15); no unwatched step moves the line. -/
theorem irqIsEnteredWhenIIsClear : Obligations.IrqIsEnteredWhenIIsClear := by
  intro s hs hn hq hi
  have entered := step_irq_ready hs hn hq hi
  obtain ⟨-, -, -, -, hirq, -⟩ := unwatchedStepsLeaveTheHostTablesAlone _ _ hs.unwatched entered
  exact ⟨_, entered, hirq.trans hq, rfl⟩

/-- Settles O50: the NMI entry drops the NMI, leaves IRQ and sets I, so the next boundary takes no interrupt (D14). -/
theorem nmiGoesBeforeIrqWhichStaysPending : Obligations.NmiGoesBeforeIrqWhichStaysPending := by
  intro s hs hn hq
  have entered := nmiIsEnteredWhateverIIs s hs hn
  obtain ⟨-, -, -, -, hirq, hnmi, -, htook⟩ := unwatchedStepsLeaveTheHostTablesAlone _ _ hs.unwatched entered
  exact ⟨_, entered, htook.mpr hn, hnmi, hirq.trans hq, rfl, fun _ => took_of_noEntry ⟨hnmi, fun _ => rfl⟩⟩

/-- Settles O51: CLI runs as IRQ is masked, and leaves it asserted with I = 0 at the very next boundary (D27). -/
theorem anAssertedIrqIsEnteredRightAfterCli : Obligations.AnAssertedIrqIsEnteredRightAfterCli := by
  intro s hs hn hq hi hop ht
  have ran : step s = .next ((afterImplied (fetched s)).setFlags { s.cpu.flags with i := false }) := by
    rw [step_eq_runOpcode hs ⟨hn, fun _ => hi⟩, hop, runOpcode_of_table (i := .cli) ht rfl]
    exact implied_setFlag_ready ((ready_fetched s).mpr hs) (·.setI false)
  have entered := step_irq_ready (step_ready hs ran) hn hq rfl
  exact ⟨_, _, ran, rfl, rfl, rfl, entered, by simp, rfl⟩

/-- Settles O52: the entry is the vectored one with B = 0, whose return address is where the machine stood. -/
theorem rtiReturnsToTheInterruptedInstruction : Obligations.RtiReturnsToTheInterruptedInstruction := by
  intro s vec p hs hwf sp₁ sp₂ h₀ h₁ h₂ h₀₁ h₀₂ h₁₂
  obtain ⟨u, returned⟩ := execRti_handlerEntry hs hwf h₀ h₁ h₂ h₀₁ h₀₂ h₁₂ false vec
    [readOf s s.cpu.pc, readOf s s.cpu.pc] s.cpu.pc p
  exact ⟨_, u, interruptEntry_ready vec hs, returned⟩

end Sys2Proof.Machine
end

section
/-! Completion on a ready machine (60_exceptions.md R400, R401, R410): every instruction completes, a step can stop at
the opcode only, and under the nop policy no run stops. -/

namespace Sys2Proof.Machine

variable {s : State} {op : Byte} {a : Addr}

/-! ### What completes -/

/-- `s` in the legacy class. -/
def inLegacy (s : State) : State := { s with cpu := { s.cpu with cls := .legacy } }

@[simp] theorem ready_inLegacy (s : State) : Ready (inLegacy s) ↔ Ready s :=
  Ready.iff_of_eq rfl rfl rfl rfl rfl

theorem inExtended_inLegacy (h : s.cpu.cls = .extended) : inExtended (inLegacy s).bus (inLegacy s) = s := by
  unfold inExtended inLegacy
  rw [← h]

/-- A state in the extended class is `inExtended` of one in the legacy class, and in both an instruction completes. -/
theorem exec_completes (i : Instr) (hs : Ready s) : ∃ t, exec i s = .next t := by
  cases hc : s.cpu.cls with
  | legacy =>
    obtain ⟨t, _, ht, -, -⟩ := exec_apart i hs hc
    exact ⟨t, ht⟩
  | extended =>
    obtain ⟨t, b, -, ht, -⟩ := exec_apart i ((ready_inLegacy s).mpr hs) rfl
    rw [inExtended_inLegacy hc] at ht
    exact ⟨inExtended b t, ht⟩

/-- Settles O7: completion by `exec_completes`, and `Ready` is kept as only stored bytes change. -/
theorem everyInstructionCompletesOnAMappedUnwatchedMachine :
    Obligations.EveryInstructionCompletesOnAMappedUnwatchedMachine := by
  intro i s hs
  obtain ⟨t, ht⟩ := exec_completes i hs
  exact ⟨t, ht, exec_ready hs ht⟩

/-! ### Where a step can stop -/

/-- The ends of a step from the opcode byte `op` fetched at `a`, with `s` the state after the fetch (R400, R84). -/
inductive StopsOnlyAtOpcode (op : Byte) (a : Addr) (s : State) : Out → Prop where
  | completes (t : State) : StopsOnlyAtOpcode op a s (.next t)
  | undefined (hp : s.params.undefPolicy = .fault)
      (hu : op ∈ undefinedBytes ∨ tableGet freshDispatch s.params.dispatch op.toNat = .undefined) :
      StopsOnlyAtOpcode op a s (.fault (.undefinedOpcode op a s))
  | hostHandler (ht : tableGet freshDispatch s.params.dispatch op.toNat = .hostHandler) :
      StopsOnlyAtOpcode op a s (.refused (.hostHandler op))

theorem undefinedOpcode_stopsOnlyAtOpcode (hs : Ready s)
    (hu : op ∈ undefinedBytes ∨ tableGet freshDispatch s.params.dispatch op.toNat = .undefined) :
    StopsOnlyAtOpcode op a s (undefinedOpcode op a s) := by
  cases hp : s.params.undefPolicy with
  | fault => exact undefinedOpcode_fault hp ▸ .undefined hp hu
  | nop => exact undefinedOpcode_nop hs hp ▸ .completes _

theorem runOpcode_stopsOnlyAtOpcode (hs : Ready s) : StopsOnlyAtOpcode op a s (runOpcode op a s) := by
  unfold runOpcode
  split
  · next ht => exact .hostHandler ht
  · next ht => exact undefinedOpcode_stopsOnlyAtOpcode hs (.inr ht)
  · split
    · next i _ =>
      obtain ⟨t, ht⟩ := exec_completes i hs
      exact ht ▸ .completes t
    · next hd => exact undefinedOpcode_stopsOnlyAtOpcode hs (.inl ((decodeOpcode_eq_none_iff op).mp hd))

/-- Both entries complete, so only a step that runs an opcode can stop. -/
theorem step_stopsOnlyAtOpcode (hs : Ready s) :
    StopsOnlyAtOpcode (memAt s s.cpu.pc) s.cpu.pc (fetched s) (step s) := by
  by_cases hn : NoEntry s
  · exact step_eq_runOpcode hs hn ▸ runOpcode_stopsOnlyAtOpcode ((ready_fetched s).mpr hs)
  · cases hnmi : s.host.nmi with
    | true =>
      rw [nmiIsEnteredWhateverIIs s hs hnmi]
      exact .completes _
    | false =>
      obtain ⟨hirq, hi⟩ : s.host.irq = true ∧ s.cpu.flags.i = false := by simpa [NoEntry, hnmi] using hn
      rw [step_irq_ready hs hnmi hirq hi]
      exact .completes _

/-- Settles O9 by the ends of a step. -/
theorem mappedUnwatchedStepsStopOnlyAtTheOpcode : Obligations.MappedUnwatchedStepsStopOnlyAtTheOpcode := by
  intro s hs
  have ends := step_stopsOnlyAtOpcode hs
  refine ⟨fun f hf => ?_, fun r hr => ?_⟩
  · rw [hf] at ends
    cases ends with
    | undefined hp hu => exact ⟨rfl, hp, hu⟩
  · rw [hr] at ends
    cases ends with
    | hostHandler ht => exact ⟨rfl, ht⟩

theorem stepsSafely_of_nop (hs : Ready s) (hp : s.params.undefPolicy = .nop)
    (hd : ∀ op, tableGet freshDispatch s.params.dispatch op ≠ .hostHandler) : StepsSafely s := by
  have ends := step_stopsOnlyAtOpcode hs
  unfold StepsSafely
  generalize step s = o at ends ⊢
  cases ends with
  | completes t => exact ⟨t, rfl⟩
  | undefined hp' _ => exact absurd (hp.symm.trans hp') (by decide)
  | hostHandler ht => exact absurd ht (hd _)

/-- Settles O8 by induction on the inputs: a step completes, is ready again and keeps the parameters. -/
theorem runsNeverStopUnderTheNopPolicy : Obligations.RunsNeverStopUnderTheNopPolicy := by
  intro inps
  induction inps with
  | nil => exact fun s _ _ _ => ⟨s, rfl⟩
  | cons inp inps ih =>
    intro s hs hp hd
    have hs' : Ready (withInputs inp s) := (ready_setLines s _ _).mpr hs
    obtain ⟨t, ht⟩ := stepsSafely_of_nop hs' hp hd
    obtain ⟨-, hparams⟩ : _ ∧ t.params = s.params := noStepChangesTheClassOrAParameter (withInputs inp s) t ht
    rw [RunsSafely, runWith, stepWith, ht]
    exact ih t (step_ready hs' ht) (hparams ▸ hp) (hparams ▸ hd)

end Sys2Proof.Machine
end

section
/-! Reset (70_reset_and_hazards.md R450): the stated values first, then PC from the vector. -/

namespace Sys2Proof.Machine

variable {s t : State}

/-- `s` with every value that Reset states but PC (R450, D16). -/
def withResetValues (s : State) : State :=
  { s with
    cpu :=
      { a := s.params.resetA, x := s.params.resetX, y := s.params.resetY, pc := s.cpu.pc
        sp := 0x01FD
        flags :=
          { n := s.params.resetN, v := s.params.resetV, d := false, i := true
            z := s.params.resetZ, c := s.params.resetC }
        cycles := 0, cls := s.cpu.cls }
    took := .none
    bus := [] }

theorem peek_withResetValues (s : State) (a : Addr) : peek (withResetValues s) a = peek s a := rfl

theorem hostReset_eq (s : State) :
    hostReset s = andThen (debugRead 0xFFFC (withResetValues s)) fun lo u =>
      andThen (debugRead 0xFFFD u) fun hi u => .next (u.setPc (word hi lo)) := rfl

theorem debugRead_of_peek_none {a : Addr} (h : peek s a = none) :
    debugRead a s = .fault (.unmappedPage a s) :=
  debugRead_unmapped (Option.map_eq_none_iff.mp h)

/-- A reset that completes has loaded PC from the vector. -/
theorem hostReset_of_peek {lo hi : Byte} (hlo : peek s 0xFFFC = some lo) (hhi : peek s 0xFFFD = some hi) :
    hostReset s = .next ((withResetValues s).setPc (word hi lo)) := by
  rw [← peek_withResetValues] at hlo hhi
  rw [hostReset_eq, debugRead_of_peek hlo, andThen_next, debugRead_of_peek hhi, andThen_next]

/-- The low byte of the vector is read first (log 15). -/
theorem hostReset_unmapped (h : peek s 0xFFFC = none ∨ peek s 0xFFFD = none) :
    ∃ a, hostReset s = .fault (.unmappedPage a (withResetValues s)) ∧ (a = 0xFFFC ∨ a = 0xFFFD) := by
  simp only [← peek_withResetValues s] at h
  cases hlo : peek (withResetValues s) 0xFFFC with
  | none =>
    refine ⟨0xFFFC, ?_, .inl rfl⟩
    rw [hostReset_eq, debugRead_of_peek_none hlo]; rfl
  | some lo =>
    have hhi : peek (withResetValues s) 0xFFFD = none := h.resolve_left (Option.ne_none_iff_exists'.mpr ⟨lo, hlo⟩)
    refine ⟨0xFFFD, ?_, .inr rfl⟩
    rw [hostReset_eq, debugRead_of_peek hlo, andThen_next, debugRead_of_peek_none hhi]; rfl

theorem hostReset_next (h : hostReset s = .next t) : ∃ pc, t = (withResetValues s).setPc pc := by
  simp only [hostReset_eq, andThen_eq_next, Host.Outcome.next.injEq] at h
  obtain ⟨lo, u, hlo, hi, v, hhi, rfl⟩ := h
  obtain ⟨-, rfl⟩ := debugRead_next hlo
  obtain ⟨-, rfl⟩ := debugRead_next hhi
  exact ⟨_, rfl⟩

/-- Settles O20: the values are set before the vector is read, so both reads see the host as it was (D16, log 15). -/
theorem resetSetsTheStatedValues : Obligations.ResetSetsTheStatedValues := by
  refine fun s => ⟨fun _ _ => hostReset_of_peek, fun h => ?_⟩
  obtain ⟨a, faults, ha⟩ := hostReset_unmapped h
  exact ⟨a, _, faults, ha⟩

end Sys2Proof.Machine
end

section
/-! The cycles of an instruction (70_reset_and_hazards.md R455): one an access (10_state.md R32), so the lengths of
the access lists of its kind and mode, with the opcode fetch. -/

namespace Sys2Proof.Machine

variable {s : State} {i : Instr} {m : Mode}

/-- `o` is an instruction run from `s` at cycle c2 that completes in `n` cycles, the opcode fetch among them. -/
def Takes (n : Nat) (s : State) (o : Out) : Prop := ∃ t, o = .next t ∧ t.cpu.cycles + 1 = s.cpu.cycles + n

@[simp] theorem afterBus_cycles (es : List BusAccess) (pc : Addr) (s : State) :
    (afterBus es pc s).cpu.cycles = s.cpu.cycles + es.length := rfl

/-- An entry makes five accesses after `before` (R408). -/
theorem handlerEntry_cycles (b : Bool) (vec : Addr) (before : List BusAccess) (ret : Addr) (s : State) :
    (handlerEntry b vec before ret s).cpu.cycles = s.cpu.cycles + (before.length + 5) := by
  simp [handlerEntry]

/-! ### Reads

The counts of the table with `+p` are those of the read kind in the modes that add an index to a word. -/

theorem length_penaltyBus_read (m : Mode) (s : State) :
    (penaltyBus .read m s).length = (crosses m s).toNat := by
  cases hc : crosses m s <;> simp [penaltyBus, hc]

theorem plusCross_eq_length_readBus (hm : AddsIndex m) :
    (if m = .indy then 5 else 4) + (crosses m s).toNat = (readBus m s).length + 1 := by
  rcases hm with rfl | rfl | rfl <;> simp [readBus, addressBus, length_penaltyBus_read] <;> omega

/-! ### The kinds -/

section
variable (h : Ready s)
include h

theorem readIn_takes {body : Byte → State → State} (hb : ∀ v t, (body v t).cpu.cycles = t.cpu.cycles)
    (hm : modeOf i ∈ .imm :: memoryModes) (hn : cyclesOf i s = (readBus (modeOf i) s).length + 1) :
    Takes (cyclesOf i s) s (readIn (modeOf i) body s) :=
  ⟨_, readIn_ready hm body h, by rw [hb, hn]; rfl⟩

theorem writeKind_takes {value : Cpu → Byte} (hv : ∀ es pc, value (afterBus es pc s).cpu = value s.cpu)
    (hm : modeOf i ∈ memoryModes) (hn : cyclesOf i s = (writeBus (modeOf i) (value s.cpu) s).length + 1) :
    Takes (cyclesOf i s) s (writeKind (pipeline .write (modeOf i)) value s) :=
  ⟨_, writeKind_ready (addresses_pipeline hm) hv h, by rw [afterBus_cycles, storeAt_cpu, hn]; rfl⟩

theorem rmwKind_takes {f : Flags → Byte → Byte × Flags} (hm : modeOf i ∈ memoryModes)
    (hn : ∀ r, cyclesOf i s = (rmwBus (modeOf i) r s).length + 1) :
    Takes (cyclesOf i s) s (rmwKind (pipeline .rmw (modeOf i)) f s) :=
  ⟨_, rmwKind_ready (addresses_pipeline hm) f h, by
    rw [State.setFlags_cycles, afterBus_cycles, storeAt_cpu, storeAt_cpu, hn]; rfl⟩

/-- An instruction with no operand takes its opcode fetch and one dummy read (R120). -/
theorem implied_takes {body : State → State} (hb : ∀ t, (body t).cpu.cycles = t.cpu.cycles) :
    Takes 2 s (implied body s) :=
  ⟨_, implied_ready body h, by rw [hb]; rfl⟩

/-- R290: one cycle more when taken, and one more when the target is on another page. -/
theorem branch_takes {cond : Flags → Bool} (hi : cycleEntry i = .branch)
    (ht : cond s.cpu.flags = branchTaken i s.cpu.flags) : Takes (cyclesOf i s) s (branch cond s) := by
  refine ⟨_, branch_ready ht h, ?_⟩
  simp only [cyclesOf, hi]
  rw [branchTarget]
  cases branchTaken i s.cpu.flags with
  | false => rfl
  | true =>
    simp only [if_true]
    split <;> rfl

/-! ### Every instruction -/

/-- Each instruction is of one kind in its own mode, or has a closed form of its own. -/
theorem exec_takes (i : Instr) : Takes (cyclesOf i s) s (exec i s) := by
  cases i with
  | ldaImm | ldaZp | ldaZpX | ldaAbs | ldaIndX | ldxImm | ldxZp | ldxZpY | ldxAbs | ldyImm | ldyZp | ldyZpX | ldyAbs
  | adcImm | adcZp | adcZpX | adcAbs | adcIndX | sbcImm | sbcZp | sbcZpX | sbcAbs | sbcIndX
  | cmpImm | cmpZp | cmpZpX | cmpAbs | cmpIndX | cpxImm | cpxZp | cpxAbs | cpyImm | cpyZp | cpyAbs
  | andImm | andZp | andZpX | andAbs | andIndX | oraImm | oraZp | oraZpX | oraAbs | oraIndX
  | eorImm | eorZp | eorZpX | eorAbs | eorIndX | bitZp | bitAbs =>
    exact readIn_takes h (fun _ _ => rfl) (by decide) rfl
  | ldaAbsX | ldyAbsX | adcAbsX | sbcAbsX | cmpAbsX | andAbsX | oraAbsX | eorAbsX =>
    exact readIn_takes h (fun _ _ => rfl) (by decide) (plusCross_eq_length_readBus (.inl rfl))
  | ldaAbsY | ldxAbsY | adcAbsY | sbcAbsY | cmpAbsY | andAbsY | oraAbsY | eorAbsY =>
    exact readIn_takes h (fun _ _ => rfl) (by decide) (plusCross_eq_length_readBus (.inr (.inl rfl)))
  | ldaIndY | adcIndY | sbcIndY | cmpIndY | andIndY | oraIndY | eorIndY =>
    exact readIn_takes h (fun _ _ => rfl) (by decide) (plusCross_eq_length_readBus (.inr (.inr rfl)))
  | staZp | staZpX | staAbs | staAbsX | staAbsY | staIndX | staIndY
  | stxZp | stxZpY | stxAbs | styZp | styZpX | styAbs =>
    exact writeKind_takes h (fun _ _ => rfl) (by decide) rfl
  | incZp | incZpX | incAbs | incAbsX | decZp | decZpX | decAbs | decAbsX
  | aslZp | aslZpX | aslAbs | aslAbsX | lsrZp | lsrZpX | lsrAbs | lsrAbsX
  | rolZp | rolZpX | rolAbs | rolAbsX | rorZp | rorZpX | rorAbs | rorAbsX =>
    exact rmwKind_takes h (by decide) fun _ => rfl
  | tax | tay | txa | tya | tsx | txs | inx | iny | dex | dey | aslA | lsrA | rolA | rorA | nop | clc | sec
  | cli | sei | cld | sed | clv => exact implied_takes h fun _ => rfl
  | bpl => exact branch_takes h (cond := (!·.n)) rfl (beq_false _).symm
  | bvc => exact branch_takes h (cond := (!·.v)) rfl (beq_false _).symm
  | bcc => exact branch_takes h (cond := (!·.c)) rfl (beq_false _).symm
  | bne => exact branch_takes h (cond := (!·.z)) rfl (beq_false _).symm
  | bmi | bvs | bcs | beq => exact branch_takes h rfl (beq_true _).symm
  | jmpAbs => exact ⟨_, execJmpAbs_ready h, rfl⟩
  | jmpInd => exact ⟨_, execJmpInd_ready h, rfl⟩
  | jsr => exact ⟨_, execJsr_ready h, by simp [cyclesOf, cycleEntry]⟩
  | rts => exact ⟨_, execRts_ready h, rfl⟩
  | brk => exact ⟨_, execBrk_ready h, by rw [handlerEntry_cycles]; rfl⟩
  | rti => exact ⟨_, execRti_ready h, rfl⟩
  | pha => exact ⟨_, execPha_ready h, by simp [cyclesOf, cycleEntry]⟩
  | php => exact ⟨_, execPhp_ready h, by simp [cyclesOf, cycleEntry]⟩
  | pla => exact ⟨_, execPla_ready h, rfl⟩
  | plp => exact ⟨_, execPlp_ready h, rfl⟩

end

/-! ### The step -/

/-- A step that takes an interrupt enters a handler after two dummy reads (R408). -/
theorem step_entry_cycles (hs : Ready s) (hn : ¬NoEntry s) :
    ∃ t, step s = .next t ∧ t.cpu.cycles = s.cpu.cycles + 7 := by
  cases hnmi : s.host.nmi with
  | true => exact ⟨_, nmiIsEnteredWhateverIIs s hs hnmi, handlerEntry_cycles ..⟩
  | false =>
    obtain ⟨hirq, hi⟩ : s.host.irq = true ∧ s.cpu.flags.i = false := by simpa [NoEntry, hnmi] using hn
    exact ⟨_, step_irq_ready hs hnmi hirq hi, handlerEntry_cycles ..⟩

theorem step_instruction_cycles (hs : Ready s) (hn : NoEntry s)
    (ht : tableGet freshDispatch s.params.dispatch (memAt s s.cpu.pc).toNat = .table)
    (hi : decodeOpcode (memAt s s.cpu.pc) = some i) :
    ∃ t, step s = .next t ∧ t.cpu.cycles = s.cpu.cycles + cyclesOf i (fetched s) := by
  obtain ⟨t, completes, count⟩ := exec_takes ((ready_fetched s).mpr hs) i
  have fetch : (fetched s).cpu.cycles = s.cpu.cycles + 1 := rfl
  refine ⟨t, ?_, by omega⟩
  rw [step_eq_runOpcode hs hn, runOpcode_of_table (s := fetched s) ht hi, completes]

/-- Settles O53: a step is an entry, an instruction or an undefined opcode, each with its count; a reset that
completes has set `cycles` (D2, D16). -/
theorem stepsTakeTheCyclesOfTheTable : Obligations.StepsTakeTheCyclesOfTheTable := by
  refine ⟨fun _ _ => step_instruction_cycles, fun _ => step_entry_cycles, fun s hs hn ht hu => ?undefined,
    fun s t h => ?reset⟩
  case undefined =>
    obtain ⟨-, policy⟩ := undefinedOpcodesFollowThePolicy
    obtain ⟨fault, nop⟩ := policy s hs hn ((decodeOpcode_eq_none_iff _).mp hu) ht
    exact ⟨fun hp => ⟨_, nop hp, rfl⟩, fun hp => ⟨_, fault hp, rfl⟩⟩
  case reset =>
    obtain ⟨pc, rfl⟩ := hostReset_next h
    rfl

end Sys2Proof.Machine
end
